-- ==== Sys2Proof/Word.lean ====
section
/-! DEFINITION. The word types of the block (00_scope.md R12, R13): what the spec treats as bits. -/

namespace Sys2Proof

/-- A byte of the command queue (20_memory.md R70). -/
abbrev Byte := BitVec 8

/-- A 32-bit host word, response word, wire field or time value (30_encoding.md R100, R110). -/
abbrev Word := BitVec 32

/-- One raw analog sample: ADC_BITS = 10 (00_scope.md R10). -/
abbrev Sample := BitVec 10

/-- A zone number: the 4-bit ZONE field of a host word (30_encoding.md R100). -/
abbrev ZoneNum := BitVec 4

/-- A 16-bit temperature pattern, read in two's complement (10_state.md R39). -/
abbrev Temp := BitVec 16

end Sys2Proof
end

