-- ==== Sys2Proof/Config.lean ====
section
/-! DEFINITION. The implementation parameters of 00_scope.md R10, as plain data, and the free values: what the
spec leaves to the environment or leaves unspecified. -/

namespace Sys2Proof

/-- `SENSOR_KIND[z]` (00_scope.md R10). -/
inductive SensorKind where
  | thermistor
  | thermocouple
  deriving DecidableEq, Repr

/-- `CONTROL_MODE[z]` (00_scope.md R10). -/
inductive ControlMode where
  | pid
  | bangBang
  deriving DecidableEq, Repr

/-- One breakpoint of a calibration table: `(raw: u16, temp: s16)` (20_memory.md R70). -/
structure Breakpoint where
  raw : BitVec 16
  temp : Temp
  deriving DecidableEq, Repr, Inhabited

/-- The opcode byte values `OPC_QPA`, `OPC_SETPOS`, `OPC_DELAY` (30_encoding.md R112). -/
structure Opcodes where
  qpa : Byte
  setPos : Byte
  delay : Byte
  deriving DecidableEq, Repr

/-- The parameters of one zone (the rows of 00_scope.md R10 indexed by `z`). -/
structure ZoneParams where
  sensorKind : SensorKind
  controlMode : ControlMode
  /-- `TBL_OFS[z]`: the calibration table reference of the zone's channel. -/
  tblOfs : Nat
  kp : Int
  ki : Int
  kd : Int
  iMin : Int
  iMax : Int
  bbSustain : Nat
  deriving DecidableEq, Repr

/-- The parameters of the block (00_scope.md R10). `NZONES` is the length of `zones`. -/
structure Config where
  kReads : Nat
  nHist : Nat
  tblN : Nat
  tblSpacing : Nat
  tcNum : Int
  tcDen : Nat
  gainFrac : Nat
  maxDuty : Nat
  tempInterval : Nat
  sfEn : Bool
  sfLo : Nat
  sfHi : Nat
  qCap : Nat
  opc : Opcodes
  zones : List ZoneParams
  deriving DecidableEq, Repr

/-- `NZONES`, the number of heater zones. -/
def Config.nZones (c : Config) : Nat := c.zones.length

/-- `ADC_MAX = 2^ADC_BITS - 1` (00_scope.md R10). -/
def adcMax : Nat := 1023

/-- The default opcode bytes of 30_encoding.md R112 (UNVERIFIED: the spec marks them "from general knowledge";
log 2). -/
def Opcodes.default : Opcodes := { qpa := 0x81, setPos := 0x82, delay := 0x85 }

/-- DESIGN CHOICE, unsafe (log 1): the OPEN parameters of one zone in `Config.reference`, the gains of the spec's
example configuration EXC (95_test_vectors.md section 0). -/
def Config.referenceZone (k : SensorKind) (m : ControlMode) : ZoneParams :=
  { sensorKind := k, controlMode := m, tblOfs := 0, kp := 512, ki := 64, kd := 256,
    iMin := -400, iMax := 400, bbSustain := 64 }

/-- The one configuration that `Machine.State.reset` names. Its decided parameters are the defaults of 00_scope.md
R10; its OPEN ones are those of the spec's example configurations EXC and EXT (DESIGN CHOICE, unsafe, log 1). Every
statement quantifies over the configuration through the state's field `cfg`. -/
def Config.reference : Config :=
  { kReads := 1, nHist := 4, tblN := 5, tblSpacing := 256, tcNum := 500, tcDen := 1024, gainFrac := 8,
    maxDuty := 255, tempInterval := 100000, sfEn := true, sfLo := 0, sfHi := 1023, qCap := 256,
    opc := Opcodes.default,
    zones := [Config.referenceZone .thermocouple .pid, Config.referenceZone .thermistor .bangBang] }

/-- FREE VALUE (log 6): what an unwritten cell of the queue buffer reads as; 10_state.md R36 leaves it
"unspecified", 93_implementation_defined.md I2 says "any value". -/
opaque Config.freeQueueByte : Nat → Byte

/-- FREE VALUE (log 5): the breakpoint at (offset, index) that nothing provisioned in `TMEM`; 10_state.md R53 makes
`TBL(ofs, i)` an environment input that is constant for the run. -/
opaque Config.freeBreakpoint : Nat → Nat → Breakpoint

/-- FREE VALUE (log 4): an ADC read that the host's action does not list, indexed by the count of draws so far;
10_state.md R53 and 20_memory.md R77 make each read a fresh draw under no law beyond its width. -/
opaque Config.freeAdc : Nat → Sample

end Sys2Proof
end

