-- ==== Sys2Proof/Syntax.lean ====
section
/-! DEFINITION. The instructions: one constructor per row of spec/opcode_table.json. The twelve host operations and
four reserved host codes (30_encoding.md R102, R103), and the wire commands of the queue (R110, R114). -/

namespace Sys2Proof

/-- An instruction of the block (00_scope.md R3): a host operation or a wire command. Ignored bits (30_encoding.md
R101) are no operands. -/
inductive Instr where
  /-- NOP, HOP 0x0 (R210). -/
  | nop
  /-- PUSH_BYTE, HOP 0x1 (R201). -/
  | pushByte (b : Byte)
  /-- RUN_SLICE, HOP 0x2 (R202). -/
  | runSlice
  /-- RESET_COMMANDS, HOP 0x3 (R206). -/
  | resetCommands
  /-- PAUSE, HOP 0x4 (R207). -/
  | pause (flag : Bool)
  /-- QUERY_PAUSED, HOP 0x5 (R208). -/
  | queryPaused
  /-- MANAGE_TEMPERATURE, HOP 0x6 (R161). -/
  | manageTemperature (zone : ZoneNum)
  /-- SET_TARGET, HOP 0x7 (R170). -/
  | setTarget (zone : ZoneNum) (t : Temp)
  /-- HAS_REACHED, HOP 0x8 (R174). -/
  | hasReached (zone : ZoneNum)
  /-- SET_ENABLE, HOP 0x9 (R173). -/
  | setEnable (zone : ZoneNum) (flag : Bool)
  /-- READ_DSTAT, HOP 0xA (R209). -/
  | readDstat
  /-- READ_ZSTAT, HOP 0xB (R175). -/
  | readZstat (zone : ZoneNum)
  /-- Reserved HOP 0xC (R103). -/
  | reservedC
  /-- Reserved HOP 0xD (R103). -/
  | reservedD
  /-- Reserved HOP 0xE (R103). -/
  | reservedE
  /-- Reserved HOP 0xF (R103). -/
  | reservedF
  /-- QUEUE_POINT_ABS, 17 bytes (R241). -/
  | queuePointAbs (x y z rate : Word)
  /-- SET_POSITION, 13 bytes (R242). -/
  | setPosition (x y z : Word)
  /-- DELAY, 5 bytes (R243). -/
  | delay (d : Word)
  /-- An unrecognized opcode byte, 1 byte (R246). -/
  | unknownOpcode (op : Byte)
  deriving DecidableEq, Repr

end Sys2Proof
end

