-- ==== Sys2Proof/WellFormed.lean ====
section
/-! DEFINITION. Which terms of `Instr` are instructions. Every operand's range is its type's; the one check left is
that an "unrecognized opcode" is not a recognized one. -/

namespace Sys2Proof

/-- 00_scope.md R11: "`OPC_QPA`, `OPC_SETPOS` and `OPC_DELAY` are pairwise distinct". -/
def Opcodes.distinct (o : Opcodes) : Bool :=
  o.qpa != o.setPos && o.qpa != o.delay && o.setPos != o.delay

/-- 30_encoding.md R112: "A byte `b` is *recognized* iff `b` is one of the three"; all 8 bits are compared. -/
def Opcodes.recognized (o : Opcodes) (b : Byte) : Bool :=
  b == o.qpa || b == o.setPos || b == o.delay

/-- An instruction is well formed under the opcode bytes `o`: an unknown opcode is one that `o` does not recognize
(30_encoding.md R114). -/
def Instr.wellFormed (o : Opcodes) : Instr → Bool
  | .unknownOpcode op => !o.recognized op
  | .nop | .pushByte _ | .runSlice | .resetCommands | .pause _ | .queryPaused | .manageTemperature _
  | .setTarget _ _ | .hasReached _ | .setEnable _ _ | .readDstat | .readZstat _
  | .reservedC | .reservedD | .reservedE | .reservedF
  | .queuePointAbs _ _ _ _ | .setPosition _ _ _ | .delay _ => true

end Sys2Proof
end

