-- ==== Sys2Proof/Decode.lean ====
section
/-! DEFINITION. The decoder and the encoder of the block's two encodings (30_encoding.md): 32-bit host words and the
byte strings of wire commands. -/

namespace Sys2Proof

/-! ### Host words -/

/-- `HOP = w[31:28]` (30_encoding.md R100). -/
def hopField (w : Word) : BitVec 4 := w.extractLsb' 28 4

/-- `ZONE = w[27:24]` (30_encoding.md R100, R101). -/
def zoneField (w : Word) : ZoneNum := w.extractLsb' 24 4

/-- `ARG = w[15:0]` (30_encoding.md R100). -/
def argField (w : Word) : BitVec 16 := w.extractLsb' 0 16

/-- PUSH_BYTE's operand `w[7:0]` (30_encoding.md R101). -/
def byteField (w : Word) : Byte := w.extractLsb' 0 8

/-- The flag operand `w[0]` of PAUSE and SET_ENABLE (30_encoding.md R101). -/
def flagField (w : Word) : Bool := w.getLsbD 0

/-- The host operation of a word: every one of the sixteen codes has its own (30_encoding.md R102, R103). -/
def decodeHost (w : Word) : Instr :=
  match (hopField w).toNat with
  | 0 => .nop
  | 1 => .pushByte (byteField w)
  | 2 => .runSlice
  | 3 => .resetCommands
  | 4 => .pause (flagField w)
  | 5 => .queryPaused
  | 6 => .manageTemperature (zoneField w)
  | 7 => .setTarget (zoneField w) (argField w)
  | 8 => .hasReached (zoneField w)
  | 9 => .setEnable (zoneField w) (flagField w)
  | 10 => .readDstat
  | 11 => .readZstat (zoneField w)
  | 12 => .reservedC
  | 13 => .reservedD
  | 14 => .reservedE
  | _ => .reservedF

/-! ### Wire commands -/

/-- Four bytes as a 32-bit value, least significant first (30_encoding.md R111). -/
def joinBytes (b0 b1 b2 b3 : Byte) : Word := b3 ++ b2 ++ b1 ++ b0

/-- `Q.peek(k)` of a byte string; requires `k < Q.len` (20_memory.md R73), which every use below has. -/
def byteAt (bs : List Byte) (k : Nat) : Byte := bs.getD k 0

/-- `field32(k)`: the 32-bit field at offset `k` (30_encoding.md R111). -/
def field32 (bs : List Byte) (k : Nat) : Word :=
  joinBytes (byteAt bs k) (byteAt bs (k + 1)) (byteAt bs (k + 2)) (byteAt bs (k + 3))

/-- The four bytes of a 32-bit field, least significant first (20_memory.md R71). -/
def fieldBytes (v : Word) : List Byte :=
  [v.extractLsb' 0 8, v.extractLsb' 8 8, v.extractLsb' 16 8, v.extractLsb' 24 8]

/-- `LEN(op)`, the total length that the opcode byte alone decides (30_encoding.md R113); an unrecognized opcode is
one byte (43_wire_commands.md R246). -/
def wireLength (o : Opcodes) (op : Byte) : Nat :=
  if op = o.qpa then 17 else if op = o.setPos then 13 else if op = o.delay then 5 else 1

/-- Why bytes do not decode to an instruction: 43_wire_commands.md R244 (a recognized opcode whose payload has not
all arrived) and 42_dispatcher.md R205 (an empty queue is not decoded). -/
inductive DecodeError where
  | incomplete
  | emptyQueue
  deriving DecidableEq, Repr

/-- What bytes decode to: an instruction and the bytes after it, or a rejection by name. -/
inductive Decoded where
  | instr (i : Instr) (rest : List Byte)
  | rejected (e : DecodeError)
  deriving DecidableEq, Repr

/-- The command of opcode `op` with the fields of its bytes at the offsets of 30_encoding.md R110; the opcode tests in
the order of 43_wire_commands.md R245. -/
def wireCommand (o : Opcodes) (op : Byte) (bs : List Byte) : Instr :=
  if op = o.qpa then .queuePointAbs (field32 bs 1) (field32 bs 5) (field32 bs 9) (field32 bs 13)
  else if op = o.setPos then .setPosition (field32 bs 1) (field32 bs 5) (field32 bs 9)
  else if op = o.delay then .delay (field32 bs 1)
  else .unknownOpcode op

/-- The wire command at the head of a byte string: its opcode byte decides its length, and it decodes only when all of
its bytes are there (30_encoding.md R113, 43_wire_commands.md R244, R245). -/
def decodeWire (o : Opcodes) (bs : List Byte) : Decoded :=
  match bs with
  | [] => .rejected .emptyQueue
  | op :: _ =>
    if bs.length < wireLength o op then .rejected .incomplete
    else .instr (wireCommand o op bs) (bs.drop (wireLength o op))

/-! ### Both encodings together -/

/-- An encoded instruction: a word on the host interface, or bytes of the command queue (00_scope.md R3). -/
inductive Words where
  | host (w : Word)
  | wire (bs : List Byte)
  deriving DecidableEq, Repr

/-- The instruction that a host word, or the head of a byte string, encodes. -/
def decode (o : Opcodes) : Words → Decoded
  | .host w => .instr (decodeHost w) []
  | .wire bs => decodeWire o bs

/-- `{HOP, ZONE, 0x00, ARG}` (30_encoding.md R115). -/
def hostWord (hop : BitVec 4) (zone : ZoneNum) (arg : BitVec 16) : Word := hop ++ zone ++ 0#8 ++ arg

/-- A flag as the operand `ARG` (30_encoding.md R101). -/
def flagArg (f : Bool) : BitVec 16 := (BitVec.ofBool f).setWidth 16

/-- The encoding of an instruction, with every ignored bit 0 (30_encoding.md R100 to R102, R110, R115). -/
def encode (o : Opcodes) : Instr → Words
  | .nop => .host (hostWord 0x0 0 0)
  | .pushByte b => .host (hostWord 0x1 0 (b.setWidth 16))
  | .runSlice => .host (hostWord 0x2 0 0)
  | .resetCommands => .host (hostWord 0x3 0 0)
  | .pause f => .host (hostWord 0x4 0 (flagArg f))
  | .queryPaused => .host (hostWord 0x5 0 0)
  | .manageTemperature z => .host (hostWord 0x6 z 0)
  | .setTarget z t => .host (hostWord 0x7 z t)
  | .hasReached z => .host (hostWord 0x8 z 0)
  | .setEnable z f => .host (hostWord 0x9 z (flagArg f))
  | .readDstat => .host (hostWord 0xA 0 0)
  | .readZstat z => .host (hostWord 0xB z 0)
  | .reservedC => .host (hostWord 0xC 0 0)
  | .reservedD => .host (hostWord 0xD 0 0)
  | .reservedE => .host (hostWord 0xE 0 0)
  | .reservedF => .host (hostWord 0xF 0 0)
  | .queuePointAbs x y z r => .wire (o.qpa :: (fieldBytes x ++ fieldBytes y ++ fieldBytes z ++ fieldBytes r))
  | .setPosition x y z => .wire (o.setPos :: (fieldBytes x ++ fieldBytes y ++ fieldBytes z))
  | .delay d => .wire (o.delay :: fieldBytes d)
  | .unknownOpcode op => .wire [op]

/-- The pseudo-instruction SEND (30_encoding.md R116): one PUSH_BYTE word per byte of a wire command's encoding, in
offset order; a host operation is its own word. -/
def send (o : Opcodes) (i : Instr) : List Word :=
  match encode o i with
  | .host w => [w]
  | .wire bs => bs.map fun b => hostWord 0x1 0 (b.setWidth 16)

/-! ### The opcode table's words -/

/-- The first `n` bytes of `w`, numbered from the least significant. -/
def wordBytes : Nat → Nat → List Byte
  | 0, _ => []
  | n + 1, w => BitVec.ofNat 8 w :: wordBytes n (w / 256)

/-- The bytes of the table word `w` read as a wire command: its opcode's whole length, bits above the table's 0. -/
def tableWireBytes (o : Opcodes) (w : Nat) : List Byte :=
  wordBytes (wireLength o (BitVec.ofNat 8 w)) w

/-- DESIGN CHOICE (log 8): a table word of 32 bits is a host word; of 8 to 136 bits otherwise, a wire command under
the default opcode bytes. -/
def decodeTableWord (nbits w : Nat) : Option Instr :=
  if nbits = 32 then some (decodeHost (BitVec.ofNat 32 w))
  else if 8 ≤ nbits ∧ nbits ≤ 136 then
    match decodeWire Opcodes.default (tableWireBytes Opcodes.default w) with
    | .instr i _ => some i
    | .rejected _ => none
  else none

end Sys2Proof
end

