-- ==== Sys2Proof/Machine/Operands.lean ====
section
/-! DEFINITION. The arithmetic primitives of the spec's pseudocode (00_scope.md R14), and which configurations are
legal (R10, R11). -/

namespace Sys2Proof.Machine

/-- `tdiv(a, b)`: the quotient truncated toward zero (00_scope.md R14). -/
def tdiv (a b : Int) : Int := Int.tdiv a b

/-- `fdiv(a, b)`: the floor quotient (00_scope.md R14). -/
def fdiv (a b : Int) : Int := Int.fdiv a b

/-- `wrap32(v) = v mod 2^32` (00_scope.md R14). -/
def wrap32 (v : Int) : Int := v % 4294967296

/-- `clamp(v, lo, hi)` (00_scope.md R14). -/
def clamp (v lo hi : Int) : Int := if v < lo then lo else if v > hi then hi else v

/-- `clamp16(v)` (00_scope.md R14). -/
def clamp16 (v : Int) : Int := clamp v (-32768) 32767

/-- The time since `start`: `wrap32(NOW - start)`, the wraparound-safe subtraction of 41_heater.md R163 and
42_dispatcher.md R204. -/
def elapsed (now start : Word) : Nat := (wrap32 ((now.toNat : Int) - start.toNat)).toNat

/-- The mean of a list of samples over `n` of them, truncated: `fdiv(sum, n)` (40_sampler.md R131, R135). -/
def meanOver (n : Nat) (xs : List Sample) : Nat :=
  (fdiv ((xs.map BitVec.toNat).sum : Nat) n).toNat

/-- The legal ranges of one zone's parameters (00_scope.md R10, R11). -/
def legalZone (c : Config) (p : ZoneParams) : Bool :=
  decide (-2147483648 ≤ p.kp ∧ p.kp ≤ 2147483647) && decide (-2147483648 ≤ p.ki ∧ p.ki ≤ 2147483647) &&
  decide (-2147483648 ≤ p.kd ∧ p.kd ≤ 2147483647) &&
  decide (-2147483648 ≤ p.iMin ∧ p.iMin ≤ 0) && decide (0 ≤ p.iMax ∧ p.iMax ≤ 2147483647) &&
  decide (p.bbSustain ≤ c.maxDuty)

/-- The configurations the model runs (00_scope.md R11, and the legal ranges of R10; log 13). -/
def legalConfig (c : Config) : Bool :=
  decide (1 ≤ c.kReads) && decide (1 ≤ c.nHist ∧ c.nHist ≤ 16) && decide (1 ≤ c.nZones ∧ c.nZones ≤ 16) &&
  decide (2 ≤ c.tblN ∧ c.tblN ≤ 256) && decide (1 ≤ c.tblSpacing) && decide (1 ≤ c.tcDen) &&
  decide (c.gainFrac ≤ 16) && decide (1 ≤ c.maxDuty ∧ c.maxDuty ≤ 255) &&
  decide (c.tempInterval < 4294967296) && decide (c.sfLo < c.sfHi ∧ c.sfHi ≤ adcMax) &&
  decide (17 ≤ c.qCap ∧ c.qCap ≤ 65535) &&
  c.opc.distinct &&
  c.zones.all (legalZone c)

end Sys2Proof.Machine
end

