-- ==== Sys2Proof/Machine/State.lean ====
section
/-! DEFINITION. The state of the block (10_state.md), as plain data, the outcomes that are no next state, and the
state after block reset (70_reset_and_hazards.md R300, R301). -/

namespace Sys2Proof.Machine

/-- The dispatcher mode (10_state.md R32). -/
inductive Mode where
  | ready
  | moving
  | delay
  | waitOnTool
  deriving DecidableEq, Repr

/-- The tagged result of the decode step (10_state.md R35): NONE, DISPATCHED, INCOMPLETE, PROTO_FAULT. -/
inductive DecodeResult where
  | notAttempted
  | dispatched
  | incomplete
  | protoFault
  deriving DecidableEq, Repr

/-- An entry of the event trace (10_state.md R52). The coordinates and the rate are signed 32-bit values. -/
inductive Event where
  | setTarget (x y z rate : Int)
  | definePosition (x y z : Int)
  | writeDuty (zone : ZoneNum) (duty : BitVec 8)
  deriving DecidableEq, Repr

/-- The registers of one heater zone and its channel (10_state.md R39 to R49). -/
structure Zone where
  /-- `TARGET[z]`, signed (R39). -/
  target : Temp
  /-- `MAXT[z]`, signed (R40). -/
  maxt : Temp
  /-- `CUR[z]`, signed (R41). -/
  cur : Temp
  /-- `ACC[z]`, signed (R42). -/
  acc : BitVec 32
  /-- `PREV[z]`, signed (R43). -/
  prev : Temp
  /-- `DUTY[z]`, unsigned; the port `DUTY_OUT[z]` (R44). -/
  duty : BitVec 8
  /-- `EN[z]` (R45). -/
  en : Bool
  /-- `SFAULT[z]` (R46). -/
  sfault : Bool
  /-- `LAST_TICK[z]` (R47). -/
  lastTick : BitVec 32
  /-- `HIST[z][0..N_HIST-1]`, the space HMEM[z] (R48, 20_memory.md R74). -/
  hist : List Sample
  /-- `HIDX[z]` (R49). -/
  hidx : BitVec 4
  deriving DecidableEq, Repr

/-- The environment inputs of one host transaction (10_state.md R53): `NOW`, `MOTION_RUNNING`, and the `ADC[z]` reads
in read order. -/
structure Inputs where
  now : Word
  running : Bool
  adc : List Sample
  deriving DecidableEq, Repr

/-- What the outside does to the block next: a host transaction (30_encoding.md R100) with the inputs it samples, or
block reset (70_reset_and_hazards.md R300). -/
inductive HostAction where
  | transaction (word : Word) (inputs : Inputs)
  | blockReset
  deriving DecidableEq, Repr

/-- The queue buffer QMEM: (index, byte) pairs. An unlisted index has no value. -/
abbrev Memory := List Host.Cell

/-- The calibration store TMEM: (offset, entries by index) pairs (20_memory.md R70, R75). -/
abbrev Calibration := List (Nat × List Breakpoint)

/-- The state of the block. -/
structure State where
  /-- The configuration, fixed for a run (10_state.md R54; log 1). -/
  cfg : Config
  /-- `TMEM`, read only (20_memory.md R75). -/
  tmem : Calibration
  /-- `MODE` (R32). -/
  mode : Mode
  /-- `PAUSED` (R33). -/
  paused : Bool
  /-- `PFAULT` (R34). -/
  pfault : Bool
  /-- `DRESULT` (R35). -/
  dresult : DecodeResult
  /-- `QBUF`, the space QMEM (R36). -/
  qmem : Memory
  /-- `QHEAD` (R36). -/
  qhead : BitVec 16
  /-- `QLEN` (R36). -/
  qlen : BitVec 16
  /-- `QOVF` (R37). -/
  qovf : Bool
  /-- `DLY_START` (R38). -/
  dlyStart : Word
  /-- `DLY_DUR` (R38). -/
  dlyDur : Word
  /-- The zones' registers, zone 0 first (R39 to R49). -/
  zones : List Zone
  /-- The event trace, oldest first (R52). -/
  trace : List Event
  /-- The response word of the last host transaction (30_encoding.md R104; log 9). -/
  response : Word
  /-- The model's own: the inputs of the current transaction (log 10). -/
  inp : Inputs
  /-- The model's own: the count of ADC draws, which indexes the free ones (log 4). -/
  draws : Nat
  /-- The model's own: the outside's actions not yet taken (log 3). -/
  pending : List HostAction
  deriving DecidableEq, Repr

/-- Why the machine would stop with a fault. NOBODY raises one: "The block has no trap, exception or interrupt
mechanism" (60_exceptions.md R270); its faults F1 to F3 are sticky status bits of State, and the machine goes on
(log 16). -/
inductive Fault
  deriving DecidableEq, Repr

/-- Why the model refuses to go on. -/
inductive Refusal where
  /-- Raised by an arm of `exec` for an instruction without a meaning. No arm raises it now. Safe: the machine
  stops. -/
  | notModelled (mnemonic : String)
  /-- Raised by `step` for a configuration outside 00_scope.md R10 and R11: "reject a configuration that breaks them".
  Safe: nothing runs. -/
  | illegalConfiguration
  deriving DecidableEq, Repr

/-- The registers of a zone after block reset (70_reset_and_hazards.md R301). -/
def Zone.reset (c : Config) : Zone :=
  { target := 0, maxt := 0, cur := 0, acc := 0, prev := 0, duty := 0, en := true, sfault := false,
    lastTick := 0, hist := List.replicate c.nHist 0, hidx := 0 }

/-- The block right after block reset, under any configuration and calibration store (70_reset_and_hazards.md R300,
R301). `response`, `inp` and `draws` are given no reset value by the spec (DESIGN CHOICE: logs 4, 9, 10). -/
def State.resetWith (c : Config) (t : Calibration) : State :=
  { cfg := c, tmem := t, mode := .ready, paused := false, pfault := false, dresult := .notAttempted,
    qmem := [], qhead := 0, qlen := 0, qovf := false, dlyStart := 0, dlyDur := 0,
    zones := c.zones.map fun _ => Zone.reset c, trace := [], response := 0,
    inp := { now := 0, running := false, adc := [] }, draws := 0, pending := [] }

/-- The block right after reset, under the configuration `Config.reference` (log 1) and with nothing provisioned in
`TMEM` (log 5). -/
def State.reset : State := State.resetWith Config.reference []

end Sys2Proof.Machine
end

