-- ==== Sys2Proof/Machine/Ops.lean ====
section
/-! DEFINITION. The named operations over memory, queue, zones, outputs and faults (20_memory.md, 60_exceptions.md), and
the fetch of the next host action and the next wire command. -/

namespace Sys2Proof.Machine

/-! ### QMEM: memory in one canonical form -/

/-- The canonical form of a memory: indices strictly rising. (An unlisted index has no value, so no listed byte can
equal what an unlisted index reads as.) -/
def Memory.wf (m : Memory) : Bool := decide (m.Pairwise fun a b => a.1 < b.1)

/-- `MemRead(QMEM, a, 1)`: the byte that was written at `a`, if one was (20_memory.md R70). -/
def Memory.read : Memory → Nat → Option Byte
  | [], _ => none
  | (k, v) :: m, a => if k = a then some v else Memory.read m a

/-- `MemWrite(QMEM, a, 1, b)` (20_memory.md R70). -/
def Memory.write : Memory → Nat → Byte → Memory
  | [], a, b => [(a, b)]
  | (k, v) :: m, a, b =>
    if a < k then (a, b) :: (k, v) :: m else if a = k then (a, b) :: m else (k, v) :: Memory.write m a b

/-! ### The queue ring (20_memory.md R73) -/

/-- The buffer index of queue position `k`: `(R.QHEAD + k) mod Q_CAP`. -/
def queueIndex (s : State) (k : Nat) : Nat := (s.qhead.toNat + k) % s.cfg.qCap

/-- The byte at buffer index `a`; a cell that nothing has written holds any value (10_state.md R36; log 6). -/
def queueCell (s : State) (a : Nat) : Byte := (s.qmem.read a).getD (Config.freeQueueByte a)

/-- `Q.peek(k)`. -/
def queuePeek (s : State) (k : Nat) : Byte := queueCell s (queueIndex s k)

/-- The bytes of the occupied window, head first: the queue as the document's "ordered, length-tracked byte
sequence" (10_state.md R36). -/
def queueWindow (s : State) : List Byte := (List.range s.qlen.toNat).map (queuePeek s)

/-- `Q.push(b)`; requires `R.QLEN < Q_CAP`. -/
def queuePush (b : Byte) (s : State) : State :=
  { s with qmem := s.qmem.write (queueIndex s s.qlen.toNat) b, qlen := s.qlen + 1 }

/-- `Q.pop(n)`; requires `n <= R.QLEN`. -/
def queuePop (n : Nat) (s : State) : State :=
  { s with qhead := BitVec.ofNat 16 (queueIndex s n), qlen := s.qlen - BitVec.ofNat 16 n }

/-- `Q.clear()`. -/
def queueClear (s : State) : State := { s with qhead := 0, qlen := 0 }

/-- The queue buffer with `bs` stored from queue position `k` on, `QHEAD` as it is. -/
def queueStore (s : State) : Nat → List Byte → Memory → Memory
  | _, [], m => m
  | k, b :: bs, m => queueStore s (k + 1) bs (m.write (queueIndex s k) b)

/-! ### Outputs (10_state.md R52, 30_encoding.md R104) -/

/-- `emit E`: append an event to the trace (00_scope.md R14). -/
def emit (e : Event) (s : State) : State := { s with trace := s.trace ++ [e] }

/-- `respond(v)`: the response word of the current transaction (00_scope.md R14). -/
def respond (v : Word) (s : State) : State := { s with response := v }

/-! ### Zones -/

/-- Zone `z`'s parameters and registers, if the block has that zone: `z < NZONES` (30_encoding.md R103). -/
def zoneUnit (s : State) (z : ZoneNum) : Option (ZoneParams × Zone) :=
  match s.cfg.zones[z.toNat]?, s.zones[z.toNat]? with
  | some p, some u => some (p, u)
  | _, _ => none

/-- Write the registers of zone `z`. -/
def setZone (z : ZoneNum) (u : Zone) (s : State) : State := { s with zones := s.zones.set z.toNat u }

/-- The zone check of 30_encoding.md R103, which every zone operation applies first: a zone operation with
`zone >= NZONES` changes no state, emits no event and responds 0. -/
def zoneOp (z : ZoneNum) (f : ZoneParams → Zone → State → State) (s : State) : State :=
  match zoneUnit s z with
  | none => respond 0 s
  | some (p, u) => f p u s

/-- A breakpoint `TBL(ofs, i)` of the calibration store; one that nothing provisioned has any value
(20_memory.md R75; log 5). -/
def tableEntry (t : Calibration) (ofs i : Nat) : Breakpoint :=
  ((t.lookup ofs).bind fun es => es[i]?).getD (Config.freeBreakpoint ofs i)

/-- The `K_READS` ADC reads of a firing tick, in read order (10_state.md R53); a read that the host's action does not
list has any value (log 4). -/
def adcReads (s : State) : List Sample :=
  (List.range s.cfg.kReads).map fun k => (s.inp.adc[k]?).getD (Config.freeAdc (s.draws + k))

/-! ### Faults: entry and recovery (60_exceptions.md R270, R278, R279) -/

/-- A fault of the block as a whole: F1 or F3. (F2 is a fault of one zone: `setSensorFault`.) -/
inductive BlockFault where
  | protocol
  | queueOverflow
  deriving DecidableEq, Repr

/-- `set_fault F`: what a fault changes is exactly its status bit (60_exceptions.md R278). -/
def setFault (f : BlockFault) (s : State) : State :=
  match f with
  | .protocol => { s with pfault := true }
  | .queueOverflow => { s with qovf := true }

/-- `set_fault SENSOR(z)` on the zone's registers (60_exceptions.md R272). -/
def setSensorFault (u : Zone) : Zone := { u with sfault := true }

/-- The partial reset of the dispatcher, which clears F1 and F3 (42_dispatcher.md R206, 60_exceptions.md R279). -/
def resetDispatcher (s : State) : State :=
  { queueClear s with
    mode := .ready, pfault := false, qovf := false, dresult := .notAttempted, dlyStart := 0, dlyDur := 0 }

/-- Block reset: every register at its reset value, the trace empty, no event (70_reset_and_hazards.md R300). The
configuration, TMEM and the outside (`inp`, `draws`, `pending`) are not the block's registers and stay (log 11). -/
def blockReset (s : State) : State :=
  { State.resetWith s.cfg s.tmem with inp := s.inp, draws := s.draws, pending := s.pending }

/-! ### The next host action -/

/-- What the block does next: nothing, a block reset, or the host transaction of a word, each with the state it
happens in. -/
inductive Fetched where
  | idle
  | reset (s : State)
  | host (w : Word) (s : State)
  deriving DecidableEq, Repr

/-- Take the outside's next action: a transaction's inputs become the current ones (10_state.md R53). With none left
the block waits (70_reset_and_hazards.md R303, 60_exceptions.md R286). -/
def fetch (s : State) : Fetched :=
  match s.pending with
  | [] => .idle
  | .blockReset :: rest => .reset { s with pending := rest }
  | .transaction w inp :: rest => .host w { s with pending := rest, inp := inp }

/-- Put a host word where the next step takes its transaction, with the current inputs. -/
def placeHostWord (w : Word) (s : State) : State := { s with pending := .transaction w s.inp :: s.pending }

/-- Put a wire command's bytes at the queue head as the whole queue, and make the next transaction a RUN_SLICE that
reaches decoding: READY, not paused, no protocol fault (42_dispatcher.md R205; log 7). -/
def placeWireBytes (bs : List Byte) (s : State) : State :=
  placeHostWord 0x20000000#32
    { s with qmem := queueStore s 0 bs s.qmem, qlen := BitVec.ofNat 16 bs.length,
             mode := .ready, paused := false, pfault := false }

end Sys2Proof.Machine
end

