-- ==== Sys2Proof/Machine/Flags.lean ====
section
/-! DEFINITION. The status words and predicates a host reads: DSTAT (10_state.md R50), ZSTAT (R51), has-reached
(41_heater.md R172), and the port DUTY_OUT (R44). -/

namespace Sys2Proof.Machine

/-- The encoding of `MODE` (10_state.md R32). -/
def Mode.code : Mode → BitVec 2
  | .ready => 0
  | .moving => 1
  | .delay => 2
  | .waitOnTool => 3

/-- The encoding of `DRESULT` (10_state.md R35). -/
def DecodeResult.code : DecodeResult → BitVec 2
  | .notAttempted => 0
  | .dispatched => 1
  | .incomplete => 2
  | .protoFault => 3

/-- `DSTAT`: QLEN 31:16, reserved 15:7 reads 0, QOVF 6, DRESULT 5:4, PFAULT 3, PAUSED 2, MODE 1:0 (10_state.md
R50). -/
def dstat (s : State) : Word :=
  s.qlen ++ 0#9 ++ BitVec.ofBool s.qovf ++ s.dresult.code ++ BitVec.ofBool s.pfault ++ BitVec.ofBool s.paused ++
    s.mode.code

/-- `reached(z)`: `20 * CUR > 19 * TARGET`, exactly (41_heater.md R172). -/
def reached (u : Zone) : Bool := decide (20 * u.cur.toInt > 19 * u.target.toInt)

/-- `ZSTAT[z]`: reserved 31:27 reads 0, REACHED 26, SFAULT 25, EN 24, DUTY 23:16, CUR 15:0 (10_state.md R51). -/
def zstat (u : Zone) : Word :=
  0#5 ++ BitVec.ofBool (reached u) ++ BitVec.ofBool u.sfault ++ BitVec.ofBool u.en ++ u.duty ++ u.cur

/-- The response of MANAGE_TEMPERATURE: bit 31 is FIRED, bits 30:0 are ZSTAT's (41_heater.md R161). -/
def manageResponse (fired : Bool) (u : Zone) : Word := BitVec.ofBool fired ++ (zstat u).extractLsb' 0 31

/-- The response of PUSH_BYTE: QLEN 31:16, ACCEPTED bit 0, the rest 0 (42_dispatcher.md R201). -/
def pushResponse (s : State) (accepted : Bool) : Word := s.qlen ++ 0#15 ++ BitVec.ofBool accepted

/-- The actuator port `DUTY_OUT[z]`, equal to `DUTY[z]` at all times (10_state.md R44); none for a zone the block
does not have. -/
def dutyOut (s : State) (z : ZoneNum) : Option (BitVec 8) := (s.zones[z.toNat]?).map Zone.duty

end Sys2Proof.Machine
end

