-- ==== Sys2Proof/Machine/Wire.lean ====
section
/-! DEFINITION. The wire commands (43_wire_commands.md). The meaning of a wire command is its `Exec_` pseudocode, with
the result it returns written to DRESULT as step 3 of RUN_SLICE does (42_dispatcher.md R202); its operands are those
the decoder read from the queue (log 12). -/

namespace Sys2Proof.Machine

/-- INCOMPLETE: "no pop, no event, no mode change" (43_wire_commands.md R244). -/
def reportIncomplete (s : State) : State := { s with dresult := .incomplete }

/-- Dispatch of a command of `n` bytes: nothing but INCOMPLETE if they have not all arrived (43_wire_commands.md R244),
else pop them, perform the command, and report DISPATCHED. -/
def dispatch (n : Nat) (perform : State → State) (s : State) : State :=
  if s.qlen.toNat < n then reportIncomplete s
  else { perform (queuePop n s) with dresult := .dispatched }

/-- Exec_QUEUE_POINT_ABS (43_wire_commands.md R241). -/
def queuePointAbs (x y z rate : Word) (s : State) : State :=
  dispatch 17 (fun s => { emit (.setTarget x.toInt y.toInt z.toInt rate.toInt) s with mode := .moving }) s

/-- Exec_SET_POSITION: the mode stays (43_wire_commands.md R242). -/
def setPosition (x y z : Word) (s : State) : State :=
  dispatch 13 (fun s => emit (.definePosition x.toInt y.toInt z.toInt) s) s

/-- Exec_DELAY: time runs from the NOW of the dispatching slice (43_wire_commands.md R243). -/
def delayCommand (d : Word) (s : State) : State :=
  dispatch 5 (fun s => { s with dlyStart := s.inp.now, dlyDur := d, mode := .delay }) s

/-- Exec_UNKNOWN: discard the byte, set the protocol fault (43_wire_commands.md R246). -/
def unknownOpcode (_op : Byte) (s : State) : State :=
  if s.qlen.toNat < 1 then s
  else { setFault .protocol (queuePop 1 s) with dresult := .protoFault }

/-- QUEUE_POINT_ABS (43_wire_commands.md R241). -/
def execQueuePointAbs (x y z rate : Word) (s : State) : Host.Outcome State Fault Refusal :=
  .next (queuePointAbs x y z rate s)

/-- SET_POSITION (43_wire_commands.md R242). -/
def execSetPosition (x y z : Word) (s : State) : Host.Outcome State Fault Refusal :=
  .next (setPosition x y z s)

/-- DELAY (43_wire_commands.md R243). -/
def execDelay (d : Word) (s : State) : Host.Outcome State Fault Refusal := .next (delayCommand d s)

/-- An unrecognized opcode (43_wire_commands.md R246). -/
def execUnknownOpcode (op : Byte) (s : State) : Host.Outcome State Fault Refusal := .next (unknownOpcode op s)

/-- The effect of a decoded wire command on the block. A host operation is never decoded from the queue. -/
def performWire (i : Instr) (s : State) : State :=
  match i with
  | .queuePointAbs x y z rate => queuePointAbs x y z rate s
  | .setPosition x y z => setPosition x y z s
  | .delay d => delayCommand d s
  | .unknownOpcode op => unknownOpcode op s
  | .nop | .pushByte _ | .runSlice | .resetCommands | .pause _ | .queryPaused | .manageTemperature _
  | .setTarget _ _ | .hasReached _ | .setEnable _ _ | .readDstat | .readZstat _
  | .reservedC | .reservedD | .reservedE | .reservedF => s

/-- `R.DRESULT <- Decode()`: perform what the head of the queue decodes to (43_wire_commands.md R245). -/
def decodeHead (s : State) : State :=
  match decodeWire s.cfg.opc (queueWindow s) with
  | .instr i _ => performWire i s
  | .rejected .incomplete => reportIncomplete s
  | .rejected .emptyQueue => { s with dresult := .notAttempted }

end Sys2Proof.Machine
end

