-- ==== Sys2Proof/Machine/Dispatcher.lean ====
section
/-! DEFINITION. The host operations of the Command Dispatcher (42_dispatcher.md) and the reserved host words
(30_encoding.md R103). -/

namespace Sys2Proof.Machine

/-- NOP (42_dispatcher.md R210). -/
def execNop (s : State) : Host.Outcome State Fault Refusal := .next (respond 0 s)

/-- The effect of PUSH_BYTE: append, or drop the byte and set F3 (42_dispatcher.md R201). -/
def pushByte (b : Byte) (s : State) : State :=
  if s.qlen.toNat < s.cfg.qCap then respond (pushResponse (queuePush b s) true) (queuePush b s)
  else respond (pushResponse s false) (setFault .queueOverflow s)

/-- PUSH_BYTE (42_dispatcher.md R201). -/
def execPushByte (b : Byte) (s : State) : Host.Outcome State Fault Refusal := .next (pushByte b s)

/-- Step 1: a move has ended (42_dispatcher.md R204). -/
def completeMove (s : State) : State :=
  if s.mode = .moving ∧ s.inp.running = false then { s with mode := .ready } else s

/-- Step 2: a delay has elapsed (42_dispatcher.md R204). -/
def completeDelay (s : State) : State :=
  if s.mode = .delay ∧ elapsed s.inp.now s.dlyStart ≥ s.dlyDur.toNat then { s with mode := .ready } else s

/-- Step 3: decode iff READY, no protocol fault, and at least one byte (42_dispatcher.md R205). -/
def decodeStep (s : State) : State :=
  if s.mode = .ready ∧ s.pfault = false ∧ 1 ≤ s.qlen.toNat then decodeHead s else { s with dresult := .notAttempted }

/-- The slice of a dispatcher that is not paused: steps 1, 2 and 3 in order (42_dispatcher.md R202). -/
def slice (s : State) : State := decodeStep (completeDelay (completeMove s))

/-- RUN_SLICE's effect: the pause test first, then the slice, and DSTAT as the response (42_dispatcher.md R202,
R203). -/
def runSlice (s : State) : State :=
  if s.paused then respond (dstat s) s else respond (dstat (slice s)) (slice s)

/-- RUN_SLICE (42_dispatcher.md R202). -/
def execRunSlice (s : State) : Host.Outcome State Fault Refusal := .next (runSlice s)

/-- RESET_COMMANDS (42_dispatcher.md R206). -/
def execResetCommands (s : State) : Host.Outcome State Fault Refusal := .next (respond 0 (resetDispatcher s))

/-- PAUSE (42_dispatcher.md R207). -/
def execPause (flag : Bool) (s : State) : Host.Outcome State Fault Refusal :=
  .next (respond 0 { s with paused := flag })

/-- QUERY_PAUSED (42_dispatcher.md R208). -/
def execQueryPaused (s : State) : Host.Outcome State Fault Refusal :=
  .next (respond ((BitVec.ofBool s.paused).setWidth 32) s)

/-- READ_DSTAT (42_dispatcher.md R209). -/
def execReadDstat (s : State) : Host.Outcome State Fault Refusal := .next (respond (dstat s) s)

/-- A reserved host word: it changes no state, emits no event and responds 0 (30_encoding.md R103). -/
def reservedWord (s : State) : State := respond 0 s

/-- Reserved HOP 0xC (30_encoding.md R103). -/
def execReservedC (s : State) : Host.Outcome State Fault Refusal := .next (reservedWord s)

/-- Reserved HOP 0xD (30_encoding.md R103). -/
def execReservedD (s : State) : Host.Outcome State Fault Refusal := .next (reservedWord s)

/-- Reserved HOP 0xE (30_encoding.md R103). -/
def execReservedE (s : State) : Host.Outcome State Fault Refusal := .next (reservedWord s)

/-- Reserved HOP 0xF (30_encoding.md R103). -/
def execReservedF (s : State) : Host.Outcome State Fault Refusal := .next (reservedWord s)

end Sys2Proof.Machine
end

