-- ==== Sys2Proof/Machine/Sampler.lean ====
section
/-! DEFINITION. The Temperature Sampler (40_sampler.md): the sampling step of a firing tick. -/

namespace Sys2Proof.Machine

/-- SAMPLE_RAW: the truncated mean of the `K_READS` reads (40_sampler.md R131). -/
def sampleRaw (c : Config) (reads : List Sample) : Sample := BitVec.ofNat 10 (meanOver c.kReads reads)

/-- Whether SENSOR_CHECK finds the sample implausible (40_sampler.md R137). -/
def implausible (c : Config) (s : Sample) : Bool := c.sfEn && decide (s.toNat ≤ c.sfLo ∨ s.toNat ≥ c.sfHi)

/-- SENSOR_CHECK: an implausible sample sets the sticky sensor fault (40_sampler.md R137). -/
def sensorCheck (c : Config) (s : Sample) (u : Zone) : Zone := if implausible c s then setSensorFault u else u

/-- RING_PUSH: the sample at the next-write index, which advances modulo `N_HIST` (40_sampler.md R134). -/
def ringPush (c : Config) (s : Sample) (u : Zone) : Zone :=
  { u with hist := u.hist.set u.hidx.toNat s, hidx := BitVec.ofNat 4 ((u.hidx.toNat + 1) % c.nHist) }

/-- RING_AVERAGE: the truncated mean of all `N_HIST` entries (40_sampler.md R135). -/
def ringAverage (c : Config) (u : Zone) : Nat := meanOver c.nHist u.hist

/-- The bracket index `min(fdiv(a - raw_0, TBL_SPACING), TBL_N - 2)` (40_sampler.md R139). -/
def bracketIndex (c : Config) (t : Calibration) (ofs a : Nat) : Nat :=
  min (fdiv ((a : Int) - (tableEntry t ofs 0).raw.toNat) c.tblSpacing).toNat (c.tblN - 2)

/-- Linear interpolation between two breakpoints, with the guard of a degenerate bracket (40_sampler.md R139). -/
def interpolate (lo hi : Breakpoint) (a : Nat) : Int :=
  if hi.raw.toNat ≤ lo.raw.toNat then lo.temp.toInt
  else clamp16 (lo.temp.toInt +
    tdiv (((a : Int) - lo.raw.toNat) * (hi.temp.toInt - lo.temp.toInt)) ((hi.raw.toNat : Int) - lo.raw.toNat))

/-- THERMISTOR_MAP, the low clamp first (40_sampler.md R139; log 19). -/
def thermistorT (c : Config) (t : Calibration) (ofs a : Nat) : Int :=
  if a ≤ (tableEntry t ofs 0).raw.toNat then (tableEntry t ofs 0).temp.toInt
  else if a ≥ (tableEntry t ofs (c.tblN - 1)).raw.toNat then (tableEntry t ofs (c.tblN - 1)).temp.toInt
  else interpolate (tableEntry t ofs (bracketIndex c t ofs a)) (tableEntry t ofs (bracketIndex c t ofs a + 1)) a

/-- THERMOCOUPLE_MAP (40_sampler.md R140). -/
def thermocoupleT (c : Config) (a : Nat) : Int := clamp16 (tdiv ((a : Int) * c.tcNum) c.tcDen)

/-- Path selection by the static sensor kind (40_sampler.md R136). -/
def mapTemperature (c : Config) (t : Calibration) (p : ZoneParams) (a : Nat) : Int :=
  match p.sensorKind with
  | .thermistor => thermistorT c t p.tblOfs a
  | .thermocouple => thermocoupleT c a

/-- The sampling step of a zone, given this tick's reads: check, push, average, map, write CUR, in the order of
40_sampler.md R132. -/
def sampleStep (c : Config) (t : Calibration) (p : ZoneParams) (reads : List Sample) (u : Zone) : Zone :=
  let s := sampleRaw c reads
  let u' := ringPush c s (sensorCheck c s u)
  { u' with cur := BitVec.ofInt 16 (mapTemperature c t p (ringAverage c u')) }

end Sys2Proof.Machine
end

