-- ==== Sys2Proof/Machine/Heater.lean ====
section
/-! DEFINITION. The Heater Controller (41_heater.md): the control laws and the zone operations MANAGE_TEMPERATURE,
SET_TARGET, HAS_REACHED, SET_ENABLE and READ_ZSTAT. -/

namespace Sys2Proof.Machine

/-! ### Control laws -/

/-- A gain applied to an exact value: `tdiv(K * x, 2^GAIN_FRAC)`, each term truncated separately (41_heater.md R166,
R167). -/
def gainTerm (c : Config) (k x : Int) : Int := tdiv (k * x) ((2 : Int) ^ c.gainFrac)

/-- `err = R.TARGET[z] - cur` (41_heater.md R166). -/
def controlError (u : Zone) : Int := u.target.toInt - u.cur.toInt

/-- The new integral accumulator: accumulate, then clamp (41_heater.md R166). -/
def nextAcc (p : ZoneParams) (u : Zone) : Int := clamp (u.acc.toInt + controlError u) p.iMin p.iMax

/-- The PID output `P + I - D`, clamped to full scale; the integral term uses the new accumulator, the derivative is
on the measurement (41_heater.md R166). `u.cur` is this tick's sample and `u.prev` the last one's. -/
def pidOutput (c : Config) (p : ZoneParams) (u : Zone) : Int :=
  clamp (gainTerm c p.kp (controlError u) + gainTerm c p.ki (nextAcc p u) -
    gainTerm c p.kd (u.cur.toInt - u.prev.toInt)) 0 c.maxDuty

/-- The bang-bang output, the tests in the order written (41_heater.md R168). -/
def bangBangOutput (c : Config) (p : ZoneParams) (u : Zone) : Int :=
  if u.cur.toInt < u.target.toInt then c.maxDuty
  else if u.cur.toInt < u.maxt.toInt then p.bbSustain
  else 0

/-- The output of the zone's control law (41_heater.md R165). -/
def lawOutput (c : Config) (p : ZoneParams) (u : Zone) : Int :=
  match p.controlMode with
  | .pid => pidOutput c p u
  | .bangBang => bangBangOutput c p u

/-- The accumulator after the zone's control law: only PID writes it (41_heater.md R166, R168). -/
def lawAcc (p : ZoneParams) (u : Zone) : BitVec 32 :=
  match p.controlMode with
  | .pid => BitVec.ofInt 32 (nextAcc p u)
  | .bangBang => u.acc

/-- Output forcing: 0 for a zone that is disabled or has a sensor fault (41_heater.md R171). -/
def forcedDuty (u : Zone) (out : Int) : BitVec 8 :=
  if u.en = false ∨ u.sfault = true then 0 else BitVec.ofInt 8 out

/-! ### The control tick -/

/-- Whether a MANAGE_TEMPERATURE call fires: `wrap32(NOW - LAST_TICK[z]) >= TEMP_INTERVAL` (41_heater.md R163). -/
def fires (c : Config) (now : Word) (u : Zone) : Bool := decide (elapsed now u.lastTick ≥ c.tempInterval)

/-- The control law and output of a tick on a zone that has its new sample: ACC, PREV and DUTY are written
(41_heater.md R161, R166, R169, R171). -/
def controlStep (c : Config) (p : ZoneParams) (u : Zone) : Zone :=
  { u with acc := lawAcc p u, prev := u.cur, duty := forcedDuty u (lawOutput c p u) }

/-- The registers of a zone after a firing tick: time stamp, sampling, control, in the order of 41_heater.md R161. -/
def firingTick (c : Config) (t : Calibration) (p : ZoneParams) (now : Word) (reads : List Sample) (u : Zone) : Zone :=
  controlStep c p (sampleStep c t p reads { u with lastTick := now })

/-- The new registers of a zone, the event that reports its duty, and the count of draws (41_heater.md R161,
10_state.md R53). -/
def fireZone (z : ZoneNum) (p : ZoneParams) (u : Zone) (s : State) : State :=
  let u' := firingTick s.cfg s.tmem p s.inp.now (adcReads s) u
  respond (manageResponse true u')
    (emit (.writeDuty z u'.duty) (setZone z u' { s with draws := s.draws + s.cfg.kReads }))

/-- MANAGE_TEMPERATURE of a zone the block has (41_heater.md R161): a debounced call is a no-op. -/
def manageZone (z : ZoneNum) (p : ZoneParams) (u : Zone) (s : State) : State :=
  if fires s.cfg s.inp.now u then fireZone z p u s else respond (manageResponse false u) s

/-- MANAGE_TEMPERATURE (41_heater.md R161). -/
def execManageTemperature (z : ZoneNum) (s : State) : Host.Outcome State Fault Refusal :=
  .next (zoneOp z (manageZone z) s)

/-! ### Target, enable and status -/

/-- The derived maximum temperature `clamp16(tdiv(t * 11, 10))` (41_heater.md R170). -/
def maxTemperature (t : Temp) : Temp := BitVec.ofInt 16 (clamp16 (tdiv (t.toInt * 11) 10))

/-- SET_TARGET (41_heater.md R170). -/
def execSetTarget (z : ZoneNum) (t : Temp) (s : State) : Host.Outcome State Fault Refusal :=
  .next (zoneOp z (fun _ u s =>
    respond (maxTemperature t ++ t) (setZone z { u with target := t, maxt := maxTemperature t } s)) s)

/-- HAS_REACHED (41_heater.md R174). -/
def execHasReached (z : ZoneNum) (s : State) : Host.Outcome State Fault Refusal :=
  .next (zoneOp z (fun _ u s => respond ((BitVec.ofBool (reached u)).setWidth 32) s) s)

/-- SET_ENABLE of a zone the block has: disabling also writes duty 0 at once (41_heater.md R173). -/
def enableZone (z : ZoneNum) (flag : Bool) (u : Zone) (s : State) : State :=
  if flag then setZone z { u with en := true } s
  else emit (.writeDuty z 0) (setZone z { u with en := false, duty := 0 } s)

/-- SET_ENABLE (41_heater.md R173). -/
def execSetEnable (z : ZoneNum) (flag : Bool) (s : State) : Host.Outcome State Fault Refusal :=
  .next (zoneOp z (fun _ u s => respond 0 (enableZone z flag u s)) s)

/-- READ_ZSTAT (41_heater.md R175). -/
def execReadZstat (z : ZoneNum) (s : State) : Host.Outcome State Fault Refusal :=
  .next (zoneOp z (fun _ u s => respond (zstat u) s) s)

end Sys2Proof.Machine
end

