-- ==== Sys2Proof/Machine/Dispatch.lean ====
section
/-! DEFINITION. The dispatch: one arm per instruction, each one call of its meaning. -/

namespace Sys2Proof.Machine

def exec (i : Instr) (s : State) : Host.Outcome State Fault Refusal :=
  match i with
  | .nop => Sys2Proof.Machine.execNop s
  | .pushByte b => Sys2Proof.Machine.execPushByte b s
  | .runSlice => Sys2Proof.Machine.execRunSlice s
  | .resetCommands => Sys2Proof.Machine.execResetCommands s
  | .pause flag => Sys2Proof.Machine.execPause flag s
  | .queryPaused => Sys2Proof.Machine.execQueryPaused s
  | .manageTemperature zone => Sys2Proof.Machine.execManageTemperature zone s
  | .setTarget zone t => Sys2Proof.Machine.execSetTarget zone t s
  | .hasReached zone => Sys2Proof.Machine.execHasReached zone s
  | .setEnable zone flag => Sys2Proof.Machine.execSetEnable zone flag s
  | .readDstat => Sys2Proof.Machine.execReadDstat s
  | .readZstat zone => Sys2Proof.Machine.execReadZstat zone s
  | .reservedC => Sys2Proof.Machine.execReservedC s
  | .reservedD => Sys2Proof.Machine.execReservedD s
  | .reservedE => Sys2Proof.Machine.execReservedE s
  | .reservedF => Sys2Proof.Machine.execReservedF s
  | .queuePointAbs x y z rate => Sys2Proof.Machine.execQueuePointAbs x y z rate s
  | .setPosition x y z => Sys2Proof.Machine.execSetPosition x y z s
  | .delay d => Sys2Proof.Machine.execDelay d s
  | .unknownOpcode op => Sys2Proof.Machine.execUnknownOpcode op s

end Sys2Proof.Machine
end

