-- ==== Sys2Proof/Machine/Step.lean ====
section
/-! DEFINITION. One step: the outside's next action, taken whole (20_memory.md R80). -/

namespace Sys2Proof.Machine

/-- One step of the block: an illegal configuration is refused before anything runs (00_scope.md R11); else the next
host transaction is decoded and performed, or block reset is taken, or, with no action left, the block holds its state
(60_exceptions.md R286). -/
def step (s : State) : Host.Outcome State Fault Refusal :=
  if legalConfig s.cfg then
    match fetch s with
    | .idle => .next s
    | .reset t => .next (blockReset t)
    | .host w t => exec (decodeHost w) t
  else .refused .illegalConfiguration

/-- `s` with the table word `w` where the next step takes its instruction: a 32-bit row is the next transaction's host
word; a wire row is the whole queue, and the next transaction is the RUN_SLICE that decodes it (log 7). -/
def State.withFetchWord (s : State) (nbits w : Nat) : State :=
  if nbits = 32 then placeHostWord (BitVec.ofNat 32 w) s
  else placeWireBytes (tableWireBytes s.cfg.opc w) s

end Sys2Proof.Machine
end

