-- ==== Sys2Proof/Safety.lean ====
section
/-! DEFINITION. The invariant of the block: what every state that block reset and the host's transactions can reach
satisfies. Each clause names the rule it formalises. -/

namespace Sys2Proof.Machine

/-- The duty that the last `WriteDuty(z, ·)` of a trace reports; 0 if there is none, the duty after block reset
(10_state.md R52, 70_reset_and_hazards.md R300). -/
def lastDuty (tr : List Event) (z : ZoneNum) : BitVec 8 :=
  tr.foldl (fun d e => match e with
    | .writeDuty z' d' => if z' = z then d' else d
    | .setTarget _ _ _ _ | .definePosition _ _ _ => d) 0

/-- The invariant of one zone's registers under the configuration and the zone's parameters. -/
structure Zone.Inv (c : Config) (p : ZoneParams) (u : Zone) : Prop where
  /-- "buffer always holds exactly N raw samples" (R48). -/
  hist_length : u.hist.length = c.nHist
  /-- `HIDX[z]` is always in `0..N_HIST-1` (R49). -/
  hidx_lt : u.hidx.toNat < c.nHist
  /-- "integral accumulator stays within [iMin, iMax] at all times" (R42, R167). -/
  acc_ge : p.iMin ≤ u.acc.toInt
  acc_le : u.acc.toInt ≤ p.iMax
  /-- `DUTY[z]` is in `0..MAX_DUTY` (R44). -/
  duty_le : u.duty.toNat ≤ c.maxDuty
  /-- A disabled or sensor-faulted zone drives duty 0 (R45, R46, R171, R173). -/
  off_when_forced : (u.en = false ∨ u.sfault = true) → u.duty = 0
  /-- "max temperature is always recomputed whenever target changes" (R40). -/
  maxt_eq : u.maxt = maxTemperature u.target
  /-- `PREV[z]` is written with the newly sampled `CUR[z]` on every firing tick, and only then is `CUR[z]` written
  (R41, R43, R169). -/
  prev_eq : u.prev = u.cur

/-- The invariant of the command queue (10_state.md R36, 20_memory.md R73). -/
structure State.QueueInv (s : State) : Prop where
  /-- `QHEAD` is always in `0..Q_CAP-1`. -/
  qhead_lt : s.qhead.toNat < s.cfg.qCap
  /-- `QLEN` is always in `0..Q_CAP`. -/
  qlen_le : s.qlen.toNat ≤ s.cfg.qCap
  /-- The buffer is in canonical form. -/
  qmem_wf : s.qmem.wf = true
  /-- The buffer has only the cells `0..Q_CAP-1`. -/
  qmem_in_range : ∀ a b, s.qmem.read a = some b → a < s.cfg.qCap
  /-- Every cell of the occupied window was written: QBUF's unspecified reset contents are never observed. -/
  window_written : ∀ k, k < s.qlen.toNat → (s.qmem.read (queueIndex s k)).isSome = true

/-- The invariant of the block. -/
structure State.Inv (s : State) : Prop where
  /-- The configuration is one the model runs (00_scope.md R11). -/
  legal : legalConfig s.cfg = true
  /-- The queue's invariant. -/
  queue : s.QueueInv
  /-- There is one set of registers per zone, and each zone's invariant holds. -/
  zones : List.Forall₂ (Zone.Inv s.cfg) s.cfg.zones s.zones
  /-- The port `DUTY_OUT[z]` is the last duty reported for the zone (R44, R52, R171, R173). -/
  duty_reported : ∀ z d, dutyOut s z = some d → d = lastDuty s.trace z

end Sys2Proof.Machine
end

