-- ==== Sys2Proof/Certificates/Slice0/Obligations.lean ====
section
/-! DEFINITION. The statements for the provers: what the numbered rules of spec/ say of the block, over every state and
so over every configuration (the state holds it, log 1). -/

namespace Sys2Proof.Claims

open Sys2Proof.Machine

/-- The bits of a host word that its operation reads (30_encoding.md R101): HOP always; ZONE for the zone operations;
of ARG the byte of PUSH_BYTE, the flag of PAUSE and SET_ENABLE, the temperature of SET_TARGET. -/
def usedBits (hop : BitVec 4) : Word :=
  match hop.toNat with
  | 1 => 0xF00000FF#32
  | 4 => 0xF0000001#32
  | 7 => 0xFF00FFFF#32
  | 9 => 0xFF000001#32
  | 6 | 8 | 11 => 0xFF000000#32
  | _ => 0xF0000000#32

/-- The operations on a zone (30_encoding.md R102), with the zone each names. -/
def zoneOf : Instr → Option ZoneNum
  | .manageTemperature z | .setTarget z _ | .hasReached z | .setEnable z _ | .readZstat z => some z
  | .nop | .pushByte _ | .runSlice | .resetCommands | .pause _ | .queryPaused | .readDstat
  | .reservedC | .reservedD | .reservedE | .reservedF
  | .queuePointAbs _ _ _ _ | .setPosition _ _ _ | .delay _ | .unknownOpcode _ => none

/-- The wire commands (30_encoding.md R110, R114). -/
def isWire : Instr → Bool
  | .queuePointAbs _ _ _ _ | .setPosition _ _ _ | .delay _ | .unknownOpcode _ => true
  | .nop | .pushByte _ | .runSlice | .resetCommands | .pause _ | .queryPaused | .manageTemperature _
  | .setTarget _ _ | .hasReached _ | .setEnable _ _ | .readDstat | .readZstat _
  | .reservedC | .reservedD | .reservedE | .reservedF => false

/-- The state after the host issued the words `ws` in order. -/
def issue : List Word → State → Option State
  | [], s => some s
  | w :: ws, s =>
    match exec (decodeHost w) s with
    | .next t => issue ws t
    | .fault _ => none
    | .refused _ => none

/-- The response word of a slice is DSTAT of the state it leaves (42_dispatcher.md R202). -/
def withDstat (s : State) : State := { s with response := dstat s }

/-- Entry `i` of the table at `ofs`, its raw value and its temperature as integers (20_memory.md R70). -/
def rawAt (t : Calibration) (ofs i : Nat) : Nat := (tableEntry t ofs i).raw.toNat

/-- See `rawAt`. -/
def tempAt (t : Calibration) (ofs i : Nat) : Int := (tableEntry t ofs i).temp.toInt

/-- A well-formed table: evenly spaced in raw (40_sampler.md R142). -/
def WellFormedTable (c : Config) (t : Calibration) (ofs : Nat) : Prop :=
  2 ≤ c.tblN ∧ 1 ≤ c.tblSpacing ∧ ∀ i, i < c.tblN → rawAt t ofs i = rawAt t ofs 0 + i * c.tblSpacing

end Sys2Proof.Claims

open Sys2Proof Sys2Proof.Machine Sys2Proof.Claims

/-! ### Encoding and decoding -/

/-- Decoding the encoding of a well-formed instruction gives it back, and for a wire command whatever follows it in
the queue is left over (30_encoding.md R100 to R102, R110 to R113). -/
def Obligations.DecodeOfEncodeIsTheInstruction : Prop :=
  ∀ (o : Opcodes) (i : Instr), o.distinct = true → i.wellFormed o = true →
    decode o (encode o i) = .instr i [] ∧
    ∀ bs rest, encode o i = .wire bs → decodeWire o (bs ++ rest) = .instr i rest

/-- Encoding what a host word decodes to gives the word with its ignored bits cleared, and clearing them changes no
decoding (30_encoding.md R100, R101). -/
def Obligations.HostWordIsItsUsedBits : Prop :=
  ∀ (o : Opcodes) (w : Word),
    encode o (decodeHost w) = .host (w &&& usedBits (hopField w)) ∧
    decodeHost (w &&& usedBits (hopField w)) = decodeHost w

/-- Every host word, written as its four fields, is the operation of its HOP with the operands of R101, whatever the
ignored bits hold (30_encoding.md R100 to R103). -/
def Obligations.HostWordsDecodeByTheirFields : Prop :=
  ∀ (z : ZoneNum) (res : BitVec 8) (a : BitVec 16),
    decodeHost (0x0#4 ++ z ++ res ++ a) = .nop ∧
    decodeHost (0x1#4 ++ z ++ res ++ a) = .pushByte (BitVec.ofNat 8 a.toNat) ∧
    decodeHost (0x2#4 ++ z ++ res ++ a) = .runSlice ∧
    decodeHost (0x3#4 ++ z ++ res ++ a) = .resetCommands ∧
    decodeHost (0x4#4 ++ z ++ res ++ a) = .pause (decide (a.toNat % 2 = 1)) ∧
    decodeHost (0x5#4 ++ z ++ res ++ a) = .queryPaused ∧
    decodeHost (0x6#4 ++ z ++ res ++ a) = .manageTemperature z ∧
    decodeHost (0x7#4 ++ z ++ res ++ a) = .setTarget z a ∧
    decodeHost (0x8#4 ++ z ++ res ++ a) = .hasReached z ∧
    decodeHost (0x9#4 ++ z ++ res ++ a) = .setEnable z (decide (a.toNat % 2 = 1)) ∧
    decodeHost (0xA#4 ++ z ++ res ++ a) = .readDstat ∧
    decodeHost (0xB#4 ++ z ++ res ++ a) = .readZstat z ∧
    decodeHost (0xC#4 ++ z ++ res ++ a) = .reservedC ∧
    decodeHost (0xD#4 ++ z ++ res ++ a) = .reservedD ∧
    decodeHost (0xE#4 ++ z ++ res ++ a) = .reservedE ∧
    decodeHost (0xF#4 ++ z ++ res ++ a) = .reservedF

/-- The opcode byte alone decides the length: fewer bytes are incomplete; with all of them, the command is read from
its own bytes and never from those behind it (30_encoding.md R113, 43_wire_commands.md R240, R244). -/
def Obligations.WireDecodingReadsOneWholeCommand : Prop :=
  ∀ (o : Opcodes) (op : Byte) (payload : List Byte),
    ((op :: payload).length < wireLength o op → decodeWire o (op :: payload) = .rejected .incomplete) ∧
    (wireLength o op ≤ (op :: payload).length →
      ∃ i, isWire i = true ∧
        ∀ behind, decodeWire o ((op :: payload).take (wireLength o op) ++ behind) = .instr i behind)

/-- A 32-bit field is assembled from four bytes, least significant first (30_encoding.md R111): the fields of a
complete command of each kind at their offsets (R110). -/
def Obligations.WireFieldsAreLittleEndian : Prop :=
  ∀ (o : Opcodes), o.distinct = true → ∀ (x y z r : Word) (rest : List Byte),
    let le : Word → List Byte := fun v =>
      [BitVec.ofNat 8 v.toNat, BitVec.ofNat 8 (v.toNat / 256), BitVec.ofNat 8 (v.toNat / 65536),
       BitVec.ofNat 8 (v.toNat / 16777216)]
    decodeWire o (o.qpa :: (le x ++ le y ++ le z ++ le r) ++ rest) = .instr (.queuePointAbs x y z r) rest ∧
    decodeWire o (o.setPos :: (le x ++ le y ++ le z) ++ rest) = .instr (.setPosition x y z) rest ∧
    decodeWire o (o.delay :: le x ++ rest) = .instr (.delay x) rest

/-- A few words written out from the spec's encodings (95_test_vectors.md sections 2.1 and 2.2) decode to what they
stand for. -/
def Obligations.SampleWordsDecode : Prop :=
  decodeHost 0x7100FF9C#32 = .setTarget 1 (BitVec.ofInt 16 (-100)) ∧
  decodeHost 0x1000FF81#32 = .pushByte 0x81 ∧
  decodeHost 0x91000000#32 = .setEnable 1 false ∧
  decodeWire Opcodes.default [0x85, 0xE8, 0x03, 0x00, 0x00] = .instr (.delay 1000) [] ∧
  decodeWire Opcodes.default [0x82, 0xFF, 0xFF, 0xFF, 0xFF, 2, 0, 0, 0, 3, 0, 0, 0] =
    .instr (.setPosition (BitVec.ofInt 32 (-1)) 2 3) [] ∧
  decodeWire Opcodes.default [0x84] = .instr (.unknownOpcode 0x84) []

/-! ### The step, reset and the invariant -/

/-- When a host word is the outside's next action, the step is `exec` of the decoded instruction, on the state with
that action taken and its inputs current (20_memory.md R80, 10_state.md R53). That the outside's actions stand in
State is the model's choice (log 3). -/
def Obligations.StepRunsTheDecodedInstruction : Prop :=
  ∀ (s : State) (w : Word) (inp : Inputs) (rest : List HostAction),
    legalConfig s.cfg = true → s.pending = .transaction w inp :: rest →
    step s = exec (decodeHost w) { s with pending := rest, inp := inp }

/-- A configuration that breaks a constraint of 00_scope.md R11 is refused before anything runs. -/
def Obligations.StepRefusesIllegalConfigurations : Prop :=
  ∀ s : State,
    (s.cfg.opc.qpa = s.cfg.opc.setPos ∨ s.cfg.opc.qpa = s.cfg.opc.delay ∨ s.cfg.opc.setPos = s.cfg.opc.delay ∨
      s.cfg.qCap < 17 ∨ s.cfg.sfHi ≤ s.cfg.sfLo ∨ s.cfg.tcDen < 1 ∨ s.cfg.tblN < 2 ∨ s.cfg.tblSpacing < 1 ∨
      ∃ p ∈ s.cfg.zones, 0 < p.iMin ∨ p.iMax < 0 ∨ s.cfg.maxDuty < p.bbSustain) →
    step s = .refused .illegalConfiguration

/-- With no action of the outside left, the block holds its state unchanged (60_exceptions.md R286). That such a step
exists is the model's choice (log 3). -/
def Obligations.IdleBlockHoldsItsState : Prop :=
  ∀ s : State, legalConfig s.cfg = true → s.pending = [] → step s = .next s

/-- Block reset, from any state, gives every register its reset value, empties the trace, emits no event, drives
every actuator 0 and changes no configuration (70_reset_and_hazards.md R300, R301). That it leaves the calibration
store and the outside's remaining actions alone is the model's choice (log 11). -/
def Obligations.BlockResetRestoresEveryRegister : Prop :=
  ∀ (s : State) (rest : List HostAction), legalConfig s.cfg = true → s.pending = .blockReset :: rest →
    ∃ t, step s = .next t ∧
      t.mode = .ready ∧ t.paused = false ∧ t.pfault = false ∧ t.dresult = .notAttempted ∧
      t.qhead = 0 ∧ t.qlen = 0 ∧ t.qovf = false ∧ t.dlyStart = 0 ∧ t.dlyDur = 0 ∧
      t.zones.length = s.cfg.nZones ∧
      (∀ u ∈ t.zones, u.target = 0 ∧ u.maxt = 0 ∧ u.cur = 0 ∧ u.acc = 0 ∧ u.prev = 0 ∧ u.duty = 0 ∧ u.en = true ∧
        u.sfault = false ∧ u.lastTick = 0 ∧ u.hist = List.replicate s.cfg.nHist 0 ∧ u.hidx = 0 ∧
        zstat u = 0x01000000#32) ∧
      t.trace = [] ∧ dstat t = 0#32 ∧ t.cfg = s.cfg ∧ t.tmem = s.tmem ∧
      (∀ z d, dutyOut t z = some d → d = 0) ∧ t.pending = rest

/-- The invariant holds right after reset, under every legal configuration and calibration store. The configuration
that `State.reset` names is the model's choice (log 1). -/
def Obligations.InvariantHoldsAtReset : Prop :=
  State.reset.Inv ∧ ∀ (c : Config) (t : Calibration), legalConfig c = true → (State.resetWith c t).Inv

/-- Every step keeps the invariant: the ring registers and the buffer's canonical form, no read of an unwritten queue
byte, the history ring's shape, the integral clamp, the duty bound, duty 0 for a disabled or faulted zone, MAXT in
step with TARGET, PREV equal to CUR, and the actuator port equal to the last reported duty (10_state.md R36, R40 to
R49, 41_heater.md R169, R171, R173). -/
def Obligations.EveryStepKeepsTheInvariant : Prop :=
  ∀ s t : State, s.Inv → step s = .next t → t.Inv

/-! ### Whole-machine rules -/

/-- No operation changes a configuration parameter (10_state.md R54), and none writes TMEM (20_memory.md R75). -/
def Obligations.ConfigurationAndTableNeverChange : Prop :=
  (∀ s t : State, step s = .next t → t.cfg = s.cfg ∧ t.tmem = s.tmem) ∧
  (∀ (i : Instr) (s t : State), exec i s = .next t → t.cfg = s.cfg ∧ t.tmem = s.tmem)

/-- Each register is written only by the operations 10_state.md names for it (R30, R32 to R49): of the wire commands,
only DELAY writes the delay registers, only the move and DELAY write the mode, and only an unrecognized opcode writes
PFAULT; a slice writes the delay registers or PFAULT only with such an opcode at the head of the queue. The wire commands
stand for the slice that dispatches them (the model's choice, log 12). -/
def Obligations.RegistersHaveOnlyTheirWriters : Prop :=
  ∀ (i : Instr) (s t : State), exec i s = .next t →
    (t.paused ≠ s.paused → ∃ f, i = .pause f) ∧
    (t.qmem ≠ s.qmem → ∃ b, i = .pushByte b) ∧
    (t.qovf ≠ s.qovf → (∃ b, i = .pushByte b) ∨ i = .resetCommands) ∧
    (t.qlen ≠ s.qlen → (∃ b, i = .pushByte b) ∨ i = .runSlice ∨ i = .resetCommands ∨ isWire i = true) ∧
    (t.qhead ≠ s.qhead ∨ t.dresult ≠ s.dresult → i = .runSlice ∨ i = .resetCommands ∨ isWire i = true) ∧
    (t.mode ≠ s.mode →
      i = .runSlice ∨ i = .resetCommands ∨ (∃ x y z r, i = .queuePointAbs x y z r) ∨ ∃ d, i = .delay d) ∧
    (t.dlyStart ≠ s.dlyStart ∨ t.dlyDur ≠ s.dlyDur →
      (i = .runSlice ∧ ∃ rest, queueWindow s = s.cfg.opc.delay :: rest) ∨ i = .resetCommands ∨ ∃ d, i = .delay d) ∧
    (t.pfault ≠ s.pfault →
      (i = .runSlice ∧ ∃ op rest, queueWindow s = op :: rest ∧ s.cfg.opc.recognized op = false) ∨
      i = .resetCommands ∨ ∃ op, i = .unknownOpcode op) ∧
    t.zones.length = s.zones.length ∧
    ∀ (k : Nat) (u u' : Zone), s.zones[k]? = some u → t.zones[k]? = some u' →
      (u'.target ≠ u.target ∨ u'.maxt ≠ u.maxt → ∃ z x, i = .setTarget z x ∧ z.toNat = k) ∧
      (u'.cur ≠ u.cur ∨ u'.acc ≠ u.acc ∨ u'.prev ≠ u.prev ∨ u'.lastTick ≠ u.lastTick ∨ u'.hist ≠ u.hist ∨
        u'.hidx ≠ u.hidx ∨ u'.sfault ≠ u.sfault → ∃ z, i = .manageTemperature z ∧ z.toNat = k) ∧
      (u'.duty ≠ u.duty → ∃ z, (i = .manageTemperature z ∨ i = .setEnable z false) ∧ z.toNat = k) ∧
      (u'.en ≠ u.en → ∃ z f, i = .setEnable z f ∧ z.toNat = k)

/-- F1 and F3 are cleared only by RESET_COMMANDS or block reset, F2 only by block reset; none of them is cleared by
anything else (60_exceptions.md R279). -/
def Obligations.FaultBitsAreSticky : Prop :=
  ∀ (i : Instr) (s t : State), exec i s = .next t →
    (∀ (k : Nat) (u u' : Zone), s.zones[k]? = some u → t.zones[k]? = some u' → u.sfault = true → u'.sfault = true) ∧
    (s.pfault = true → t.pfault = false → i = .resetCommands) ∧
    (s.qovf = true → t.qovf = false → i = .resetCommands)

/-- Each fault is raised only by its own cause, and its transaction raises no other fault. PFAULT: an unpaused slice
with an unrecognized byte at the head of the queue (or that unknown opcode as an instruction of its own, the model's
choice, log 12). QOVF: PUSH_BYTE on a full queue. SFAULT: a MANAGE_TEMPERATURE of its zone that fires, with detection
enabled; no other zone changes. PFAULT and QOVF are raised without touching a zone (60_exceptions.md R270, R277). -/
def Obligations.EachFaultHasItsOneSource : Prop :=
  ∀ (i : Instr) (s t : State), exec i s = .next t →
    (s.pfault = false → t.pfault = true →
      ((i = .runSlice ∧ s.paused = false ∧ ∃ op rest, queueWindow s = op :: rest ∧ s.cfg.opc.recognized op = false) ∨
        ∃ op, i = .unknownOpcode op) ∧
      t.qovf = s.qovf ∧ t.zones = s.zones) ∧
    (s.qovf = false → t.qovf = true →
      (∃ b, i = .pushByte b) ∧ s.cfg.qCap ≤ s.qlen.toNat ∧ t.pfault = s.pfault ∧ t.zones = s.zones) ∧
    (∀ (k : Nat) (u u' : Zone), s.zones[k]? = some u → t.zones[k]? = some u' → u.sfault = false → u'.sfault = true →
      (∃ z, i = .manageTemperature z ∧ z.toNat = k) ∧ s.cfg.sfEn = true ∧
      (s.cfg.tempInterval : Int) ≤ ((s.inp.now.toNat : Int) - u.lastTick.toNat) % 4294967296 ∧
      t.pfault = s.pfault ∧ t.qovf = s.qovf ∧ ∀ j, j ≠ k → t.zones[j]? = s.zones[j]?)

/-- The event trace is only appended to, by at most one event a transaction (10_state.md R52, 42_dispatcher.md
R211). -/
def Obligations.TraceGrowsByAtMostOneEvent : Prop :=
  ∀ (i : Instr) (s t : State), exec i s = .next t → t.trace = s.trace ∨ ∃ e, t.trace = s.trace ++ [e]

/-- A zone operation touches only its own zone's registers and no dispatcher register; every other operation touches
no zone (41_heater.md R164, 60_exceptions.md R284). -/
def Obligations.ZonesShareNothing : Prop :=
  ∀ (i : Instr) (s t : State), exec i s = .next t →
    (∀ z, zoneOf i = some z →
      (∀ k, k ≠ z.toNat → t.zones[k]? = s.zones[k]?) ∧ t.mode = s.mode ∧ t.paused = s.paused ∧ t.pfault = s.pfault ∧
      t.dresult = s.dresult ∧ t.qmem = s.qmem ∧ t.qhead = s.qhead ∧ t.qlen = s.qlen ∧ t.qovf = s.qovf ∧
      t.dlyStart = s.dlyStart ∧ t.dlyDur = s.dlyDur) ∧
    (zoneOf i = none → t.zones = s.zones)

/-- What a zone operation does to its zone, its response and its events do not depend on the dispatcher (paused or
not) or on any other zone (41_heater.md R164, 42_dispatcher.md R207). -/
def Obligations.ZoneOperationSeesOnlyItsZone : Prop :=
  ∀ (i : Instr) (z : ZoneNum) (s₁ s₂ : State), zoneOf i = some z →
    s₁.cfg = s₂.cfg → s₁.tmem = s₂.tmem → s₁.inp = s₂.inp → s₁.draws = s₂.draws →
    s₁.zones[z.toNat]? = s₂.zones[z.toNat]? →
    ∃ t₁ t₂ es, exec i s₁ = .next t₁ ∧ exec i s₂ = .next t₂ ∧ t₁.zones[z.toNat]? = t₂.zones[z.toNat]? ∧
      t₁.response = t₂.response ∧ t₁.trace = s₁.trace ++ es ∧ t₂.trace = s₂.trace ++ es

/-- The dispatcher does not see the zones: with any other zone registers, every operation that is no zone operation
does the same (60_exceptions.md R284). -/
def Obligations.DispatcherIgnoresZones : Prop :=
  ∀ (i : Instr) (s : State) (zs : List Zone), zoneOf i = none →
    ∃ t, exec i s = .next t ∧ exec i { s with zones := zs } = .next { t with zones := zs }

/-! ### The command queue -/

/-- PUSH_BYTE with room: the byte is stored at `(QHEAD + QLEN) mod Q_CAP`, every other cell reads as before, the
queue as a byte sequence gets it at its end, the response is QLEN and ACCEPTED, and nothing else changes
(42_dispatcher.md R201, 20_memory.md R73). -/
def Obligations.PushByteAppends : Prop :=
  ∀ (s : State) (b : Byte), legalConfig s.cfg = true → s.qlen.toNat < s.cfg.qCap →
    ∃ t, exec (.pushByte b) s = .next t ∧
      t = { s with qmem := t.qmem, qlen := s.qlen + 1, response := (s.qlen + 1) ++ 1#16 } ∧
      queueWindow t = queueWindow s ++ [b] ∧
      t.qmem.read ((s.qhead.toNat + s.qlen.toNat) % s.cfg.qCap) = some b ∧
      ∀ a, a ≠ (s.qhead.toNat + s.qlen.toNat) % s.cfg.qCap → t.qmem.read a = s.qmem.read a

/-- PUSH_BYTE when the queue is full: the byte is dropped and QOVF set (42_dispatcher.md R201, 60_exceptions.md
R274). -/
def Obligations.PushByteWhenFullDropsTheByte : Prop :=
  ∀ (s : State) (b : Byte), s.cfg.qCap ≤ s.qlen.toNat →
    exec (.pushByte b) s = .next { s with qovf := true, response := s.qlen ++ 0#16 }

/-- A slice pops nothing, or exactly the bytes of one whole command: `LEN(op)` of a recognized opcode, 1 of an
unrecognized one. It pops nothing only if it is paused, if it attempts no decoding (not READY after its steps 1 and 2,
a protocol fault, or an empty queue), or if a recognized opcode's bytes have not all arrived. It writes no queue byte
(42_dispatcher.md R203, R205, 43_wire_commands.md R248, 20_memory.md R83). -/
def Obligations.SlicePopsOneWholeCommandOrNothing : Prop :=
  ∀ s : State, legalConfig s.cfg = true →
    ∃ t, exec .runSlice s = .next t ∧ t.qmem = s.qmem ∧
      ((t.qhead = s.qhead ∧ t.qlen = s.qlen ∧ t.trace = s.trace ∧
          (s.paused = true ∨
            (t.dresult = .notAttempted ∧ (t.mode ≠ .ready ∨ s.pfault = true ∨ s.qlen = 0)) ∨
            (t.dresult = .incomplete ∧ ∃ op rest, queueWindow s = op :: rest ∧ s.cfg.opc.recognized op = true ∧
              s.qlen.toNat < wireLength s.cfg.opc op))) ∨
       ∃ op rest, queueWindow s = op :: rest ∧ wireLength s.cfg.opc op ≤ s.qlen.toNat ∧
          queueWindow t = (queueWindow s).drop (wireLength s.cfg.opc op) ∧
          t.dresult = if s.cfg.opc.recognized op then .dispatched else .protoFault)

/-! ### RUN_SLICE -/

/-- A paused slice changes no state at all and only responds (42_dispatcher.md R203). -/
def Obligations.PausedSliceIsANoOp : Prop :=
  ∀ s : State, s.paused = true → exec .runSlice s = .next { s with response := dstat s }

/-- Step 1: MOVING ends exactly when the motion subsystem is not running; the slice then goes on as from READY. While
it runs, nothing is dispatched (42_dispatcher.md R204, R213, R214). -/
def Obligations.MovingEndsExactlyWhenMotionStops : Prop :=
  ∀ s : State, s.paused = false → s.mode = .moving →
    (s.inp.running = true → exec .runSlice s = .next (withDstat { s with dresult := .notAttempted })) ∧
    (s.inp.running = false → ∃ t, exec .runSlice s = .next t ∧ exec .runSlice { s with mode := .ready } = .next t)

/-- Step 2: DELAY ends exactly when the time since its start, modulo 2^32, has reached its duration; the slice then
goes on as from READY. Before that, nothing is dispatched (42_dispatcher.md R204, 60_exceptions.md R282). -/
def Obligations.DelayEndsExactlyWhenElapsed : Prop :=
  ∀ s : State, s.paused = false → s.mode = .delay →
    (((s.inp.now.toNat : Int) - s.dlyStart.toNat) % 4294967296 < s.dlyDur.toNat →
      exec .runSlice s = .next (withDstat { s with dresult := .notAttempted })) ∧
    ((s.dlyDur.toNat : Int) ≤ ((s.inp.now.toNat : Int) - s.dlyStart.toNat) % 4294967296 →
      ∃ t, exec .runSlice s = .next t ∧ exec .runSlice { s with mode := .ready } = .next t)

/-- WAIT_ON_TOOL: an unpaused slice in it only sets DRESULT to NONE; of the host operations only RESET_COMMANDS leaves
it, and none enters it; block reset leaves it (42_dispatcher.md R212). -/
def Obligations.WaitOnToolIsNeitherEnteredNorLeft : Prop :=
  (∀ s : State, s.paused = false → s.mode = .waitOnTool →
    exec .runSlice s = .next (withDstat { s with dresult := .notAttempted })) ∧
  (∀ (w : Word) (s t : State), exec (decodeHost w) s = .next t →
    (t.mode = .waitOnTool ↔ s.mode = .waitOnTool ∧ decodeHost w ≠ .resetCommands)) ∧
  (∀ s : State, (blockReset s).mode = .ready)

/-- Step 3 is not attempted under a protocol fault or on an empty queue: only DRESULT changes, to NONE
(42_dispatcher.md R205, 60_exceptions.md R271). -/
def Obligations.NoDecodingUnderAFaultOrOnAnEmptyQueue : Prop :=
  ∀ s : State, s.paused = false → s.mode = .ready → (s.pfault = true ∨ s.qlen = 0) →
    exec .runSlice s = .next (withDstat { s with dresult := .notAttempted })

/-- In READY, unpaused and without a protocol fault, a slice runs exactly the command that the queue's bytes decode
to: the state is what that instruction's meaning gives, with DSTAT as the response, and the queue is left with the
bytes behind it (42_dispatcher.md R205, 43_wire_commands.md R245). That DRESULT's write belongs to the command's
meaning is the model's choice (log 12). -/
def Obligations.SliceRunsTheDecodedCommand : Prop :=
  ∀ (s : State) (i : Instr) (rest : List Byte), legalConfig s.cfg = true →
    s.paused = false → s.mode = .ready → s.pfault = false →
    decodeWire s.cfg.opc (queueWindow s) = .instr i rest →
    ∃ t, exec i s = .next t ∧ exec .runSlice s = .next (withDstat t) ∧ queueWindow t = rest

/-- A recognized opcode whose payload has not all arrived changes nothing but DRESULT: no pop, no event, no mode
change (43_wire_commands.md R244). -/
def Obligations.IncompleteCommandWaits : Prop :=
  ∀ (s : State) (op : Byte) (rest : List Byte), s.paused = false → s.mode = .ready → s.pfault = false →
    queueWindow s = op :: rest → s.qlen.toNat < wireLength s.cfg.opc op →
    exec .runSlice s = .next (withDstat { s with dresult := .incomplete })

/-- Pushing the bytes of a command into the empty queue and then running one slice performs exactly that command and
empties the queue (30_encoding.md R116, 20_memory.md R83, R84). That DRESULT's write belongs to the command's meaning is
the model's choice (log 12). -/
def Obligations.SendThenSliceRunsTheCommand : Prop :=
  ∀ (s : State) (i : Instr), legalConfig s.cfg = true → isWire i = true → i.wellFormed s.cfg.opc = true →
    s.qlen = 0 → s.mode = .ready → s.paused = false → s.pfault = false →
    ∃ t r, issue (send s.cfg.opc i) s = some t ∧ encode s.cfg.opc i = .wire (queueWindow t) ∧
      exec i t = .next r ∧ exec .runSlice t = .next (withDstat r) ∧ queueWindow r = [] ∧
      t = { s with qmem := t.qmem, qlen := t.qlen, response := t.response }

/-! ### The wire commands -/

/-- QUEUE_POINT_ABS: with all 17 bytes there, they are popped, the decoded signed values are handed to the motion
subsystem, and the mode becomes MOVING; with fewer, only DRESULT changes. Nothing else changes (43_wire_commands.md
R241, R244, R247). DRESULT's write is part of the command's meaning by the model's choice (log 12). -/
def Obligations.QueuePointAbsHandsTheMoveOn : Prop :=
  ∀ (s : State) (x y z rate : Word), legalConfig s.cfg = true →
    (17 ≤ s.qlen.toNat → ∃ t, exec (.queuePointAbs x y z rate) s = .next t ∧
      t = { s with qhead := t.qhead, qlen := t.qlen, mode := .moving, dresult := .dispatched,
                   trace := s.trace ++ [.setTarget x.toInt y.toInt z.toInt rate.toInt] } ∧
      t.qhead.toNat = (s.qhead.toNat + 17) % s.cfg.qCap ∧ t.qlen.toNat = s.qlen.toNat - 17 ∧
      queueWindow t = (queueWindow s).drop 17) ∧
    (s.qlen.toNat < 17 → exec (.queuePointAbs x y z rate) s = .next { s with dresult := .incomplete })

/-- SET_POSITION: with all 13 bytes there, they are popped and the decoded position is handed on; the mode stays.
Nothing else changes but DRESULT (43_wire_commands.md R242, R244; log 12). -/
def Obligations.SetPositionHandsThePositionOn : Prop :=
  ∀ (s : State) (x y z : Word), legalConfig s.cfg = true →
    (13 ≤ s.qlen.toNat → ∃ t, exec (.setPosition x y z) s = .next t ∧
      t = { s with qhead := t.qhead, qlen := t.qlen, dresult := .dispatched,
                   trace := s.trace ++ [.definePosition x.toInt y.toInt z.toInt] } ∧
      t.qhead.toNat = (s.qhead.toNat + 13) % s.cfg.qCap ∧ t.qlen.toNat = s.qlen.toNat - 13 ∧
      queueWindow t = (queueWindow s).drop 13) ∧
    (s.qlen.toNat < 13 → exec (.setPosition x y z) s = .next { s with dresult := .incomplete })

/-- DELAY: with all 5 bytes there, they are popped, the delay starts at this slice's NOW with the decoded duration,
and the mode becomes DELAY. Nothing else changes but DRESULT (43_wire_commands.md R243, R244; log 12). -/
def Obligations.DelayStartsTheTimeout : Prop :=
  ∀ (s : State) (d : Word), legalConfig s.cfg = true →
    (5 ≤ s.qlen.toNat → ∃ t, exec (.delay d) s = .next t ∧
      t = { s with qhead := t.qhead, qlen := t.qlen, mode := .delay, dresult := .dispatched,
                   dlyStart := s.inp.now, dlyDur := d } ∧
      t.qhead.toNat = (s.qhead.toNat + 5) % s.cfg.qCap ∧ t.qlen.toNat = s.qlen.toNat - 5 ∧
      queueWindow t = (queueWindow s).drop 5) ∧
    (s.qlen.toNat < 5 → exec (.delay d) s = .next { s with dresult := .incomplete })

/-- An unrecognized opcode: exactly one byte is discarded and the protocol fault set; mode, delay and events are
unchanged (43_wire_commands.md R246). DRESULT's write is part of the meaning by the model's choice (log 12). -/
def Obligations.UnknownOpcodeIsDiscardedAndReported : Prop :=
  ∀ (s : State) (op : Byte), legalConfig s.cfg = true → 1 ≤ s.qlen.toNat →
    ∃ t, exec (.unknownOpcode op) s = .next t ∧
      t = { s with qhead := t.qhead, qlen := t.qlen, pfault := true, dresult := .protoFault } ∧
      t.qhead.toNat = (s.qhead.toNat + 1) % s.cfg.qCap ∧ t.qlen.toNat = s.qlen.toNat - 1 ∧
      queueWindow t = (queueWindow s).drop 1

/-! ### The other dispatcher operations -/

/-- RESET_COMMANDS, in any mode and paused or not, empties the queue and gives the dispatcher's registers but PAUSED
their reset values; nothing else changes (42_dispatcher.md R206, 70_reset_and_hazards.md R302). -/
def Obligations.ResetCommandsEmptiesTheDispatcher : Prop :=
  ∀ s : State, ∃ t, exec .resetCommands s = .next t ∧
    t = { s with qhead := 0, qlen := 0, mode := .ready, pfault := false, qovf := false, dresult := .notAttempted,
                 dlyStart := 0, dlyDur := 0, response := 0 } ∧
    queueWindow t = []

/-- PAUSE writes PAUSED and nothing else; QUERY_PAUSED reads it (42_dispatcher.md R207, R208). -/
def Obligations.PauseIsWhatQueryPausedReads : Prop :=
  ∀ (s : State) (f : Bool),
    exec (.pause f) s = .next { s with paused := f, response := 0 } ∧
    exec .queryPaused s = .next { s with response := if s.paused then 1 else 0 }

/-- READ_DSTAT changes nothing and responds the fields of DSTAT at their places (10_state.md R50, 42_dispatcher.md
R209). -/
def Obligations.ReadDstatLayout : Prop :=
  ∀ s : State, ∃ r : Word, exec .readDstat s = .next { s with response := r } ∧
    r.toNat % 4 = (match s.mode with | .ready => 0 | .moving => 1 | .delay => 2 | .waitOnTool => 3) ∧
    r.getLsbD 2 = s.paused ∧ r.getLsbD 3 = s.pfault ∧
    r.toNat / 16 % 4 =
      (match s.dresult with | .notAttempted => 0 | .dispatched => 1 | .incomplete => 2 | .protoFault => 3) ∧
    r.getLsbD 6 = s.qovf ∧ r.toNat / 128 % 512 = 0 ∧ r.toNat / 65536 = s.qlen.toNat

/-- NOP and the four reserved host codes change no state, emit no event and respond 0; a reserved word is none of
NOP's (42_dispatcher.md R210, 30_encoding.md R103). -/
def Obligations.NopAndReservedWordsOnlyRespond : Prop :=
  (∀ s : State, exec .nop s = .next { s with response := 0 } ∧
    exec .reservedC s = .next { s with response := 0 } ∧ exec .reservedD s = .next { s with response := 0 } ∧
    exec .reservedE s = .next { s with response := 0 } ∧ exec .reservedF s = .next { s with response := 0 }) ∧
  ∀ w : Word, 0xC0000000 ≤ w.toNat → decodeHost w ≠ .nop ∧
    (decodeHost w = .reservedC ∨ decodeHost w = .reservedD ∨ decodeHost w = .reservedE ∨ decodeHost w = .reservedF)

/-! ### Zone operations -/

/-- A host word with HOP in 0xC to 0xF is reserved: it changes no state, emits no event and responds 0, and it is not
NOP. A zone operation with `zone >= NZONES` does the same. No host word traps (30_encoding.md R103). -/
def Obligations.ReservedAndAbsentZoneWordsOnlyRespond : Prop :=
  ∀ (s : State) (w : Word),
    (0xC ≤ (hopField w).toNat → exec (decodeHost w) s = .next { s with response := 0 } ∧ decodeHost w ≠ .nop) ∧
    (∀ z, zoneOf (decodeHost w) = some z → s.cfg.nZones ≤ z.toNat →
      exec (decodeHost w) s = .next { s with response := 0 }) ∧
    ∃ t, exec (decodeHost w) s = .next t

/-- SET_TARGET writes TARGET, recomputes MAXT as 11/10 of it truncated and clamped, responds both, and changes nothing
else (41_heater.md R170). -/
def Obligations.SetTargetWritesTargetAndMaxt : Prop :=
  ∀ (s : State) (z : ZoneNum) (x : Temp) (p : ZoneParams) (u : Zone), zoneUnit s z = some (p, u) →
    ∃ m : Temp, m.toInt = max (-32768) (min 32767 (Int.tdiv (x.toInt * 11) 10)) ∧
      exec (.setTarget z x) s =
        .next { s with zones := s.zones.set z.toNat { u with target := x, maxt := m }, response := m ++ x }

/-- SET_ENABLE: enabling only writes EN; disabling also drives the duty to 0 at once and reports it (41_heater.md
R173). -/
def Obligations.SetEnableDrivesZeroWhenDisabling : Prop :=
  ∀ (s : State) (z : ZoneNum) (p : ZoneParams) (u : Zone), zoneUnit s z = some (p, u) →
    exec (.setEnable z true) s =
      .next { s with zones := s.zones.set z.toNat { u with en := true }, response := 0 } ∧
    exec (.setEnable z false) s =
      .next { s with zones := s.zones.set z.toNat { u with en := false, duty := 0 }, response := 0,
                     trace := s.trace ++ [.writeDuty z 0] }

/-- HAS_REACHED responds 1 exactly when the current temperature is above 19/20 of the target, and changes nothing
(41_heater.md R172, R174). -/
def Obligations.HasReachedIsAboveNinetyFivePercent : Prop :=
  ∀ (s : State) (z : ZoneNum) (p : ZoneParams) (u : Zone), zoneUnit s z = some (p, u) →
    (19 * u.target.toInt < 20 * u.cur.toInt → exec (.hasReached z) s = .next { s with response := 1 }) ∧
    (20 * u.cur.toInt ≤ 19 * u.target.toInt → exec (.hasReached z) s = .next { s with response := 0 })

/-- READ_ZSTAT changes nothing and responds the fields of ZSTAT at their places (10_state.md R51, 41_heater.md
R175). -/
def Obligations.ReadZstatLayout : Prop :=
  ∀ (s : State) (z : ZoneNum) (p : ZoneParams) (u : Zone), zoneUnit s z = some (p, u) →
    ∃ r : Word, exec (.readZstat z) s = .next { s with response := r } ∧
      r.toNat % 65536 = u.cur.toNat ∧ r.toNat / 65536 % 256 = u.duty.toNat ∧ r.getLsbD 24 = u.en ∧
      r.getLsbD 25 = u.sfault ∧ r.getLsbD 26 = decide (19 * u.target.toInt < 20 * u.cur.toInt) ∧
      r.toNat / 134217728 = 0

/-- A MANAGE_TEMPERATURE call before the interval is over writes no state and emits no event; it responds ZSTAT with
bit 31 clear (41_heater.md R161, R163). -/
def Obligations.DebouncedCallIsANoOp : Prop :=
  ∀ (s : State) (z : ZoneNum) (p : ZoneParams) (u : Zone), zoneUnit s z = some (p, u) →
    ((s.inp.now.toNat : Int) - u.lastTick.toNat) % 4294967296 < s.cfg.tempInterval →
    exec (.manageTemperature z) s = .next { s with response := zstat u }

/-- A firing tick writes only its zone's registers: the time stamp, one ring entry and its index, CUR, PREV equal to
it, ACC, DUTY and possibly SFAULT; TARGET, MAXT and EN stay. It reports the duty, and responds ZSTAT with bit 31 set.
(`draws` is the model's own count of ADC draws.) (41_heater.md R161, R163, R169, R171.) -/
def Obligations.FiringTickWritesItsZoneAndReportsTheDuty : Prop :=
  ∀ (s : State) (z : ZoneNum) (p : ZoneParams) (u : Zone), zoneUnit s z = some (p, u) →
    (s.cfg.tempInterval : Int) ≤ ((s.inp.now.toNat : Int) - u.lastTick.toNat) % 4294967296 →
    ∃ u' : Zone,
      exec (.manageTemperature z) s =
        .next { s with zones := s.zones.set z.toNat u', trace := s.trace ++ [.writeDuty z u'.duty],
                       response := zstat u' ||| 0x80000000#32, draws := s.draws + s.cfg.kReads } ∧
      u'.lastTick = s.inp.now ∧ u'.prev = u'.cur ∧ u'.target = u.target ∧ u'.maxt = u.maxt ∧ u'.en = u.en ∧
      (p.controlMode = .bangBang → u'.acc = u.acc) ∧ (u.sfault = true → u'.sfault = true) ∧
      u'.hidx.toNat = (u.hidx.toNat + 1) % s.cfg.nHist % 16 ∧
      (∀ k, k ≠ u.hidx.toNat → u'.hist[k]? = u.hist[k]?) ∧
      ((u'.en = false ∨ u'.sfault = true) → u'.duty = 0)

/-- The control law of a firing tick in PID mode, computed from that tick's own sample: the accumulator is clamped
before the integral term is formed, each term is truncated separately, the derivative is on the measurement, and the
output is clamped to full scale (41_heater.md R162, R166). -/
def Obligations.PidTickFollowsTheLaw : Prop :=
  ∀ (s : State) (z : ZoneNum) (p : ZoneParams) (u : Zone), legalConfig s.cfg = true →
    zoneUnit s z = some (p, u) → p.controlMode = .pid →
    (s.cfg.tempInterval : Int) ≤ ((s.inp.now.toNat : Int) - u.lastTick.toNat) % 4294967296 →
    ∃ t u', exec (.manageTemperature z) s = .next t ∧ zoneUnit t z = some (p, u') ∧
      u'.acc.toInt = max p.iMin (min p.iMax (u.acc.toInt + (u.target.toInt - u'.cur.toInt))) ∧
      (u'.en = true → u'.sfault = false →
        (u'.duty.toNat : Int) = max 0 (min (s.cfg.maxDuty : Int)
          (Int.tdiv (p.kp * (u.target.toInt - u'.cur.toInt)) (2 ^ s.cfg.gainFrac) +
            Int.tdiv (p.ki * u'.acc.toInt) (2 ^ s.cfg.gainFrac) -
            Int.tdiv (p.kd * (u'.cur.toInt - u.prev.toInt)) (2 ^ s.cfg.gainFrac))))

/-- The control law of a firing tick in bang-bang mode, computed from that tick's own sample, the tests in the order
written (41_heater.md R162, R168). -/
def Obligations.BangBangTickFollowsTheLaw : Prop :=
  ∀ (s : State) (z : ZoneNum) (p : ZoneParams) (u : Zone), legalConfig s.cfg = true →
    zoneUnit s z = some (p, u) → p.controlMode = .bangBang →
    (s.cfg.tempInterval : Int) ≤ ((s.inp.now.toNat : Int) - u.lastTick.toNat) % 4294967296 →
    ∃ t u', exec (.manageTemperature z) s = .next t ∧ zoneUnit t z = some (p, u') ∧ u'.acc = u.acc ∧
      (u'.en = true → u'.sfault = false →
        u'.duty.toNat = if u'.cur.toInt < u.target.toInt then s.cfg.maxDuty
          else if u'.cur.toInt < u.maxt.toInt then p.bbSustain else 0)

/-- The sampling of a firing tick: the truncated mean of the `K_READS` reads goes into the ring at HIDX; the sensor
fault is set exactly when it was set or the sample is implausible; CUR is the temperature of the mean over the whole
ring with the new sample in it (40_sampler.md R131 to R137). The reads are those the transaction lists. -/
def Obligations.FiringTickSamplesFirst : Prop :=
  ∀ (s : State) (z : ZoneNum) (p : ZoneParams) (u : Zone), legalConfig s.cfg = true →
    zoneUnit s z = some (p, u) → u.Inv s.cfg p → s.inp.adc.length = s.cfg.kReads →
    (s.cfg.tempInterval : Int) ≤ ((s.inp.now.toNat : Int) - u.lastTick.toNat) % 4294967296 →
    ∃ t u', exec (.manageTemperature z) s = .next t ∧ zoneUnit t z = some (p, u') ∧
      ∃ (raw : Sample) (avg : Nat),
        raw.toNat = (s.inp.adc.map BitVec.toNat).sum / s.cfg.kReads ∧
        u'.hist[u.hidx.toNat]? = some raw ∧ u'.hist.length = s.cfg.nHist ∧
        avg = (u'.hist.map BitVec.toNat).sum / s.cfg.nHist ∧ avg ≤ 1023 ∧
        (u'.sfault = true ↔
          u.sfault = true ∨ (s.cfg.sfEn = true ∧ (raw.toNat ≤ s.cfg.sfLo ∨ s.cfg.sfHi ≤ raw.toNat))) ∧
        u'.cur.toInt = (match p.sensorKind with
          | .thermistor => thermistorT s.cfg s.tmem p.tblOfs avg
          | .thermocouple => thermocoupleT s.cfg avg)

/-! ### The sampler -/

/-- The thermistor map is total and bounded: any table and any average give a signed 16-bit temperature
(40_sampler.md R139). -/
def Obligations.ThermistorIsBounded : Prop :=
  ∀ (c : Config) (t : Calibration) (ofs a : Nat),
    -32768 ≤ thermistorT c t ofs a ∧ thermistorT c t ofs a ≤ 32767

/-- The clamps: at or below the first breakpoint the first temperature; above it and at or above the last, the last
one; and no entry outside the table is read (40_sampler.md R139, R141; where both clamps apply, log 19). -/
def Obligations.ThermistorClampsAndStaysInTheTable : Prop :=
  ∀ (c : Config) (t t' : Calibration) (ofs a : Nat),
    (a ≤ rawAt t ofs 0 → thermistorT c t ofs a = tempAt t ofs 0) ∧
    (rawAt t ofs 0 < a → rawAt t ofs (c.tblN - 1) ≤ a → thermistorT c t ofs a = tempAt t ofs (c.tblN - 1)) ∧
    (2 ≤ c.tblN → (∀ i, i < c.tblN → tableEntry t' ofs i = tableEntry t ofs i) →
      thermistorT c t' ofs a = thermistorT c t ofs a)

/-- The thermistor map between its clamps, for every table, well formed or not: the bracket index is the O(1) quotient,
but at most `TBL_N - 2`; a degenerate bracket gives its floor temperature, and any other the linear interpolation (or
extrapolation) on its two breakpoints, truncated and clamped to 16 bits (40_sampler.md R139). -/
def Obligations.AnyTableAnswersByItsIndexedBracket : Prop :=
  ∀ (c : Config) (t : Calibration) (ofs a : Nat), 2 ≤ c.tblN →
    rawAt t ofs 0 < a → a < rawAt t ofs (c.tblN - 1) →
    ∃ i, i = min ((a - rawAt t ofs 0) / c.tblSpacing) (c.tblN - 2) ∧ i + 1 < c.tblN ∧
      (rawAt t ofs (i + 1) ≤ rawAt t ofs i → thermistorT c t ofs a = tempAt t ofs i) ∧
      (rawAt t ofs i < rawAt t ofs (i + 1) → thermistorT c t ofs a =
        max (-32768) (min 32767 (tempAt t ofs i +
          Int.tdiv (((a : Int) - rawAt t ofs i) * (tempAt t ofs (i + 1) - tempAt t ofs i))
            ((rawAt t ofs (i + 1) : Int) - rawAt t ofs i))))

/-- In a well-formed table the O(1) index finds the bracket, without its `min`, and the map is the linear
interpolation in it: no guard and no clamp acts (40_sampler.md R142). -/
def Obligations.WellFormedTableInterpolatesInItsBracket : Prop :=
  ∀ (c : Config) (t : Calibration) (ofs a : Nat), WellFormedTable c t ofs →
    rawAt t ofs 0 < a → a < rawAt t ofs (c.tblN - 1) →
    ∃ i, i = (a - rawAt t ofs 0) / c.tblSpacing ∧ i + 2 ≤ c.tblN ∧ rawAt t ofs i ≤ a ∧ a < rawAt t ofs (i + 1) ∧
      thermistorT c t ofs a = tempAt t ofs i +
        Int.tdiv (((a : Int) - rawAt t ofs i) * (tempAt t ofs (i + 1) - tempAt t ofs i)) c.tblSpacing

/-- Monotonicity: a well-formed table whose temperatures do not fall gives a map that does not fall, and one whose
temperatures do not rise gives a map that does not rise (40_sampler.md R142, 90_conflicts.md C6). -/
def Obligations.WellFormedTableIsMonotone : Prop :=
  ∀ (c : Config) (t : Calibration) (ofs a₁ a₂ : Nat), WellFormedTable c t ofs → a₁ < a₂ →
    ((∀ i, i + 1 < c.tblN → tempAt t ofs i ≤ tempAt t ofs (i + 1)) →
      thermistorT c t ofs a₁ ≤ thermistorT c t ofs a₂) ∧
    ((∀ i, i + 1 < c.tblN → tempAt t ofs (i + 1) ≤ tempAt t ofs i) →
      thermistorT c t ofs a₂ ≤ thermistorT c t ofs a₁)

/-- The thermocouple map is the fixed linear scale, truncated and clamped; with a scale that is not negative it does
not fall, and a raw 0 gives 0 (40_sampler.md R140). -/
def Obligations.ThermocoupleIsALinearScale : Prop :=
  ∀ (c : Config) (a₁ a₂ : Nat), 1 ≤ c.tcDen →
    thermocoupleT c a₁ = max (-32768) (min 32767 (Int.tdiv ((a₁ : Int) * c.tcNum) c.tcDen)) ∧
    (0 ≤ c.tcNum → a₁ ≤ a₂ → thermocoupleT c a₁ ≤ thermocoupleT c a₂) ∧
    thermocoupleT c 0 = 0

/-- After `N_HIST` samples the ring holds exactly them, in order from the write index on, and its average is theirs:
every reset zero has been overwritten (40_sampler.md R134, R135). -/
def Obligations.RingHoldsTheLastSamples : Prop :=
  ∀ (c : Config) (u : Zone) (xs : List Sample), 1 ≤ c.nHist → c.nHist ≤ 16 → u.hist.length = c.nHist →
    u.hidx.toNat < c.nHist → xs.length = c.nHist →
    ∃ u', u' = xs.foldl (fun v x => ringPush c x v) u ∧ u'.hidx = u.hidx ∧
      (∀ k, k < c.nHist → u'.hist[(u.hidx.toNat + k) % c.nHist]? = xs[k]?) ∧
      ringAverage c u' = (xs.map BitVec.toNat).sum / c.nHist

/-! ### Arithmetic of the control loop and of time -/

/-- Every product of the PID law is below 2^63 in magnitude, with s16 temperatures, an s32 accumulator and s32 gains
(41_heater.md R167). -/
def Obligations.PidProductsStayBelowTwoToThe63 : Prop :=
  ∀ (c : Config) (p : ZoneParams) (u : Zone), legalZone c p = true →
    |p.kp * controlError u| < 2 ^ 63 ∧ |p.ki * nextAcc p u| < 2 ^ 63 ∧
    |p.kd * (u.cur.toInt - u.prev.toInt)| < 2 ^ 63

/-- Integral bounds derived from the gain keep the integral term within the drive-authority ceiling on every tick
(41_heater.md R177). -/
def Obligations.IntegralTermStaysUnderItsCeiling : Prop :=
  ∀ (c : Config) (p : ZoneParams) (u : Zone) (ceiling : Int), 0 ≤ ceiling → 0 < p.ki →
    p.iMax = (ceiling * 2 ^ c.gainFrac) / p.ki → p.iMin = -p.iMax →
    |gainTerm c p.ki (nextAcc p u)| ≤ ceiling

/-- Elapsed time survives a rollover of NOW: `d` microseconds after a start, for any `d` below 2^32, the elapsed time
is `d` (60_exceptions.md R273). -/
def Obligations.ElapsedTimeSurvivesRollover : Prop :=
  ∀ (start : Word) (d : Nat), d < 4294967296 → elapsed (start + BitVec.ofNat 32 d) start = d
end

