-- ==== Sys2Proof/Laws/Arith.lean ====
section
/-! SUPPORT. One lemma for each arithmetic primitive: what it can answer (00_scope.md R14). -/

namespace Sys2Proof.Machine

/-- `clamp` answers a value between its bounds, and the value itself when that is between them. -/
theorem clamp_spec (v lo hi : Int) (h : lo ≤ hi) :
    lo ≤ clamp v lo hi ∧ clamp v lo hi ≤ hi ∧ (lo ≤ v → v ≤ hi → clamp v lo hi = v) := by
  unfold clamp; split
  · omega
  · split <;> omega

/-- `clamp` as the lattice operations. -/
theorem clamp_eq_max_min (v lo hi : Int) (h : lo ≤ hi) : clamp v lo hi = max lo (min v hi) := by
  unfold clamp; split
  · omega
  · split <;> omega

/-- `clamp16` answers a signed 16-bit value. -/
theorem clamp16_range (v : Int) : -32768 ≤ clamp16 v ∧ clamp16 v ≤ 32767 :=
  ⟨(clamp_spec v _ _ (by decide)).1, (clamp_spec v _ _ (by decide)).2.1⟩

/-- `clamp16` keeps a signed 16-bit value. -/
theorem clamp16_of_range {v : Int} (h1 : -32768 ≤ v) (h2 : v ≤ 32767) : clamp16 v = v :=
  (clamp_spec v _ _ (by decide)).2.2 h1 h2

/-- `elapsed` is subtraction modulo 2^32 of 32-bit patterns. -/
theorem elapsed_eq_sub (now start : Word) : elapsed now start = (now - start).toNat := by
  have h1 := now.isLt
  have h2 := start.isLt
  simp only [elapsed, wrap32, BitVec.toNat_sub]
  omega

/-- `tdiv` of a product by a positive divisor is monotone in the numerator. -/
theorem tdiv_mono {a b d : Int} (hd : 0 < d) (h : a ≤ b) : tdiv a d ≤ tdiv b d := by
  unfold tdiv
  rcases le_or_gt 0 a with ha | ha
  · rw [Int.tdiv_eq_ediv_of_nonneg ha, Int.tdiv_eq_ediv_of_nonneg (le_trans ha h)]
    exact Int.ediv_le_ediv hd h
  · rcases le_or_gt 0 b with hb | hb
    · have h1 : Int.tdiv a d ≤ 0 := by
        have := Int.tdiv_nonneg (a := -a) (b := d) (by omega) (by omega)
        rw [Int.neg_tdiv] at this; omega
      have h2 : 0 ≤ Int.tdiv b d := Int.tdiv_nonneg hb (by omega)
      omega
    · have : Int.tdiv (-b) d ≤ Int.tdiv (-a) d := by
        rw [Int.tdiv_eq_ediv_of_nonneg (by omega), Int.tdiv_eq_ediv_of_nonneg (by omega)]
        exact Int.ediv_le_ediv hd (by omega)
      rw [Int.neg_tdiv, Int.neg_tdiv] at this; omega

/-- A signed pattern of an in-range integer reads back as that integer (`bits_N`, `sext_N`). -/
theorem toInt_ofInt16 {v : Int} (h1 : -32768 ≤ v) (h2 : v ≤ 32767) : (BitVec.ofInt 16 v).toInt = v := by
  rw [BitVec.toInt_ofInt]; exact Int.bmod_eq_of_le (by norm_num; omega) (by norm_num; omega)

/-- A signed 32-bit pattern of an in-range integer reads back as that integer. -/
theorem toInt_ofInt32 {v : Int} (h1 : -2147483648 ≤ v) (h2 : v ≤ 2147483647) : (BitVec.ofInt 32 v).toInt = v := by
  rw [BitVec.toInt_ofInt]; exact Int.bmod_eq_of_le (by norm_num; omega) (by norm_num; omega)

/-- The range of a signed 16-bit register. -/
theorem temp_range (t : Temp) : -32768 ≤ t.toInt ∧ t.toInt ≤ 32767 := by
  have h1 := t.le_toInt; have h2 := t.toInt_lt; norm_num at h1 h2; omega

/-- The mean of samples over their count is a sample: at most `ADC_MAX` (40_sampler.md R131, R135). -/
theorem meanOver_le (n : Nat) (xs : List Sample) (h : xs.length = n) : meanOver n xs ≤ adcMax := by
  have hs : (xs.map BitVec.toNat).sum ≤ xs.length * 1023 := by
    clear h
    induction xs with
    | nil => simp
    | cons x xs ih => simp only [List.map_cons, List.sum_cons, List.length_cons]; have := x.isLt; omega
  rcases Nat.eq_zero_or_pos n with rfl | hn
  · simp [meanOver, fdiv, adcMax]
  · have : meanOver n xs = (xs.map BitVec.toNat).sum / n := by
      simp only [meanOver, fdiv]; rw [Int.fdiv_eq_ediv_of_nonneg _ (by omega)]; norm_cast
    rw [this]; exact Nat.div_le_of_le_mul (by rw [h] at hs; simpa [adcMax, Nat.mul_comm] using hs)

/-- The truncated mean as a quotient of naturals. -/
theorem meanOver_eq (n : Nat) (xs : List Sample) : meanOver n xs = (xs.map BitVec.toNat).sum / n := by
  simp only [meanOver, fdiv]; rw [Int.fdiv_eq_ediv_of_nonneg _ (by omega)]; norm_cast

end Sys2Proof.Machine
end

