-- ==== Sys2Proof/Laws/Encoding.lean ====
section
/-! SUPPORT. The fields of the two encodings read back as they were written (30_encoding.md R100, R101, R111). -/

namespace Sys2Proof

/-- The value of a field assembled from its bytes: `b0 | b1 << 8 | b2 << 16 | b3 << 24` (30_encoding.md R111). -/
theorem joinBytes_toNat (b0 b1 b2 b3 : Byte) :
    (joinBytes b0 b1 b2 b3).toNat = b0.toNat + 256 * b1.toNat + 65536 * b2.toNat + 16777216 * b3.toNat := by
  have h0 := b0.isLt; have h1 := b1.isLt; have h2 := b2.isLt
  simp only [joinBytes, BitVec.toNat_append, Nat.shiftLeft_eq]
  rw [Nat.mul_comm _ (2 ^ 8), ← Nat.two_pow_add_eq_or_of_lt h0, Nat.mul_comm _ (2 ^ 8),
    ← Nat.two_pow_add_eq_or_of_lt h1, Nat.mul_comm _ (2 ^ 8), ← Nat.two_pow_add_eq_or_of_lt h2]
  omega

/-- Four little-endian bytes of a value give the value back (30_encoding.md R111). -/
@[simp] theorem joinBytes_extract (v : Word) :
    joinBytes (v.extractLsb' 0 8) (v.extractLsb' 8 8) (v.extractLsb' 16 8) (v.extractLsb' 24 8) = v := by
  have := v.isLt
  refine BitVec.eq_of_toNat_eq ?_
  simp only [joinBytes_toNat, BitVec.extractLsb'_toNat, Nat.shiftRight_eq_div_pow]
  omega

/-- A field is read from its own four bytes only: what stands behind them does not matter. -/
theorem field32_append (bs behind : List Byte) (k : Nat) (h : k + 4 ≤ bs.length) :
    field32 (bs ++ behind) k = field32 bs k := by
  simp only [field32, byteAt, List.getD_eq_getElem?_getD]
  rw [List.getElem?_append_left (by omega), List.getElem?_append_left (by omega),
    List.getElem?_append_left (by omega), List.getElem?_append_left (by omega)]

/-- A field of a truncated string is the string's, if its bytes are still there. -/
theorem field32_take (bs : List Byte) (n k : Nat) (h : k + 4 ≤ n) : field32 (bs.take n) k = field32 bs k := by
  simp only [field32, byteAt, List.getD_eq_getElem?_getD]
  rw [List.getElem?_take_of_lt (by omega), List.getElem?_take_of_lt (by omega),
    List.getElem?_take_of_lt (by omega), List.getElem?_take_of_lt (by omega)]

/-- What `decodeWire` can answer: a rejection for an empty or an incomplete string, or one whole command. -/
theorem decodeWire_cases (o : Opcodes) (bs : List Byte) :
    (bs = [] ∧ decodeWire o bs = .rejected .emptyQueue) ∨
    ∃ op payload, bs = op :: payload ∧
      ((bs.length < wireLength o op ∧ decodeWire o bs = .rejected .incomplete) ∨
       (wireLength o op ≤ bs.length ∧ decodeWire o bs = .instr (wireCommand o op bs) (bs.drop (wireLength o op)))) := by
  cases bs with
  | nil => exact .inl ⟨rfl, rfl⟩
  | cons op payload =>
    refine .inr ⟨op, payload, rfl, ?_⟩
    by_cases h : (op :: payload).length < wireLength o op
    · exact .inl ⟨h, by simp only [decodeWire, if_pos h]⟩
    · exact .inr ⟨by omega, by simp only [decodeWire, if_neg h]⟩

/-- What `wireCommand` can answer: the command that the opcode names, with its length. -/
theorem wireCommand_cases (o : Opcodes) (op : Byte) (bs : List Byte) :
    (op = o.qpa ∧ wireLength o op = 17 ∧
      wireCommand o op bs = .queuePointAbs (field32 bs 1) (field32 bs 5) (field32 bs 9) (field32 bs 13)) ∨
    (op ≠ o.qpa ∧ op = o.setPos ∧ wireLength o op = 13 ∧
      wireCommand o op bs = .setPosition (field32 bs 1) (field32 bs 5) (field32 bs 9)) ∨
    (op ≠ o.qpa ∧ op ≠ o.setPos ∧ op = o.delay ∧ wireLength o op = 5 ∧
      wireCommand o op bs = .delay (field32 bs 1)) ∨
    (o.recognized op = false ∧ wireLength o op = 1 ∧ wireCommand o op bs = .unknownOpcode op) := by
  unfold wireLength wireCommand Opcodes.recognized
  split_ifs <;> simp_all

variable (hop : BitVec 4) (zone : ZoneNum) (arg : BitVec 16)

@[simp] theorem hopField_hostWord : hopField (hostWord hop zone arg) = hop := by
  ext i hi
  simp only [hopField, hostWord, BitVec.getElem_extractLsb', BitVec.getLsbD_append]
  simp [show ¬(28 + i < 16) by omega, show ¬(28 + i - 16 < 8) by omega, show ¬(28 + i - 16 - 8 < 4) by omega,
    ← BitVec.getLsbD_eq_getElem, show 28 + i - 16 - 8 - 4 = i by omega]

@[simp] theorem zoneField_hostWord : zoneField (hostWord hop zone arg) = zone := by
  ext i hi
  simp only [zoneField, hostWord, BitVec.getElem_extractLsb', BitVec.getLsbD_append]
  simp [show ¬(24 + i < 16) by omega, show ¬(24 + i - 16 < 8) by omega, ← BitVec.getLsbD_eq_getElem,
    show 24 + i - 16 - 8 = i by omega]
  omega

@[simp] theorem argField_hostWord : argField (hostWord hop zone arg) = arg := by
  ext i hi
  simp only [argField, hostWord, BitVec.getElem_extractLsb', BitVec.getLsbD_append]
  simp [← BitVec.getLsbD_eq_getElem]
  omega

@[simp] theorem byteField_hostWord (b : Byte) : byteField (hostWord hop zone (b.setWidth 16)) = b := by
  ext i hi
  simp only [byteField, hostWord, BitVec.getElem_extractLsb', BitVec.getLsbD_append]
  simp [← BitVec.getLsbD_eq_getElem, show i < 16 by omega]

@[simp] theorem flagField_hostWord (f : Bool) : flagField (hostWord hop zone (flagArg f)) = f := by
  simp only [flagField, hostWord, BitVec.getLsbD_append]
  cases f <;> simp [flagArg]

end Sys2Proof
end

