-- ==== Sys2Proof/Laws/State.lean ====
section
/-! SUPPORT. The small lemmas of the state's named updates: one lemma per field per update, so that no later proof
unfolds a record update. -/

namespace Sys2Proof.Machine

variable (s : State)

/-! ### `Q.push` (20_memory.md R73) -/

@[simp] theorem queuePush_cfg (b : Byte) : (queuePush b s).cfg = s.cfg := rfl
@[simp] theorem queuePush_tmem (b : Byte) : (queuePush b s).tmem = s.tmem := rfl
@[simp] theorem queuePush_mode (b : Byte) : (queuePush b s).mode = s.mode := rfl
@[simp] theorem queuePush_paused (b : Byte) : (queuePush b s).paused = s.paused := rfl
@[simp] theorem queuePush_pfault (b : Byte) : (queuePush b s).pfault = s.pfault := rfl
@[simp] theorem queuePush_dresult (b : Byte) : (queuePush b s).dresult = s.dresult := rfl
@[simp] theorem queuePush_qmem (b : Byte) : (queuePush b s).qmem = s.qmem.write (queueIndex s s.qlen.toNat) b := rfl
@[simp] theorem queuePush_qhead (b : Byte) : (queuePush b s).qhead = s.qhead := rfl
@[simp] theorem queuePush_qlen (b : Byte) : (queuePush b s).qlen = s.qlen + 1 := rfl
@[simp] theorem queuePush_qovf (b : Byte) : (queuePush b s).qovf = s.qovf := rfl
@[simp] theorem queuePush_dlyStart (b : Byte) : (queuePush b s).dlyStart = s.dlyStart := rfl
@[simp] theorem queuePush_dlyDur (b : Byte) : (queuePush b s).dlyDur = s.dlyDur := rfl
@[simp] theorem queuePush_zones (b : Byte) : (queuePush b s).zones = s.zones := rfl
@[simp] theorem queuePush_trace (b : Byte) : (queuePush b s).trace = s.trace := rfl
@[simp] theorem queuePush_response (b : Byte) : (queuePush b s).response = s.response := rfl
@[simp] theorem queuePush_inp (b : Byte) : (queuePush b s).inp = s.inp := rfl
@[simp] theorem queuePush_draws (b : Byte) : (queuePush b s).draws = s.draws := rfl
@[simp] theorem queuePush_pending (b : Byte) : (queuePush b s).pending = s.pending := rfl

/-! ### `Q.pop` (20_memory.md R73) -/

@[simp] theorem queuePop_cfg (n : Nat) : (queuePop n s).cfg = s.cfg := rfl
@[simp] theorem queuePop_tmem (n : Nat) : (queuePop n s).tmem = s.tmem := rfl
@[simp] theorem queuePop_mode (n : Nat) : (queuePop n s).mode = s.mode := rfl
@[simp] theorem queuePop_paused (n : Nat) : (queuePop n s).paused = s.paused := rfl
@[simp] theorem queuePop_pfault (n : Nat) : (queuePop n s).pfault = s.pfault := rfl
@[simp] theorem queuePop_dresult (n : Nat) : (queuePop n s).dresult = s.dresult := rfl
@[simp] theorem queuePop_qmem (n : Nat) : (queuePop n s).qmem = s.qmem := rfl
@[simp] theorem queuePop_qhead (n : Nat) : (queuePop n s).qhead = BitVec.ofNat 16 (queueIndex s n) := rfl
@[simp] theorem queuePop_qlen (n : Nat) : (queuePop n s).qlen = s.qlen - BitVec.ofNat 16 n := rfl
@[simp] theorem queuePop_qovf (n : Nat) : (queuePop n s).qovf = s.qovf := rfl
@[simp] theorem queuePop_dlyStart (n : Nat) : (queuePop n s).dlyStart = s.dlyStart := rfl
@[simp] theorem queuePop_dlyDur (n : Nat) : (queuePop n s).dlyDur = s.dlyDur := rfl
@[simp] theorem queuePop_zones (n : Nat) : (queuePop n s).zones = s.zones := rfl
@[simp] theorem queuePop_trace (n : Nat) : (queuePop n s).trace = s.trace := rfl
@[simp] theorem queuePop_response (n : Nat) : (queuePop n s).response = s.response := rfl
@[simp] theorem queuePop_inp (n : Nat) : (queuePop n s).inp = s.inp := rfl
@[simp] theorem queuePop_draws (n : Nat) : (queuePop n s).draws = s.draws := rfl
@[simp] theorem queuePop_pending (n : Nat) : (queuePop n s).pending = s.pending := rfl

/-! ### `Q.clear` (20_memory.md R73) -/

@[simp] theorem queueClear_cfg : (queueClear s).cfg = s.cfg := rfl
@[simp] theorem queueClear_tmem : (queueClear s).tmem = s.tmem := rfl
@[simp] theorem queueClear_mode : (queueClear s).mode = s.mode := rfl
@[simp] theorem queueClear_paused : (queueClear s).paused = s.paused := rfl
@[simp] theorem queueClear_pfault : (queueClear s).pfault = s.pfault := rfl
@[simp] theorem queueClear_dresult : (queueClear s).dresult = s.dresult := rfl
@[simp] theorem queueClear_qmem : (queueClear s).qmem = s.qmem := rfl
@[simp] theorem queueClear_qhead : (queueClear s).qhead = 0 := rfl
@[simp] theorem queueClear_qlen : (queueClear s).qlen = 0 := rfl
@[simp] theorem queueClear_qovf : (queueClear s).qovf = s.qovf := rfl
@[simp] theorem queueClear_dlyStart : (queueClear s).dlyStart = s.dlyStart := rfl
@[simp] theorem queueClear_dlyDur : (queueClear s).dlyDur = s.dlyDur := rfl
@[simp] theorem queueClear_zones : (queueClear s).zones = s.zones := rfl
@[simp] theorem queueClear_trace : (queueClear s).trace = s.trace := rfl
@[simp] theorem queueClear_response : (queueClear s).response = s.response := rfl
@[simp] theorem queueClear_inp : (queueClear s).inp = s.inp := rfl
@[simp] theorem queueClear_draws : (queueClear s).draws = s.draws := rfl
@[simp] theorem queueClear_pending : (queueClear s).pending = s.pending := rfl

/-! ### `emit` (00_scope.md R14) -/

@[simp] theorem emit_cfg (e : Event) : (emit e s).cfg = s.cfg := rfl
@[simp] theorem emit_tmem (e : Event) : (emit e s).tmem = s.tmem := rfl
@[simp] theorem emit_mode (e : Event) : (emit e s).mode = s.mode := rfl
@[simp] theorem emit_paused (e : Event) : (emit e s).paused = s.paused := rfl
@[simp] theorem emit_pfault (e : Event) : (emit e s).pfault = s.pfault := rfl
@[simp] theorem emit_dresult (e : Event) : (emit e s).dresult = s.dresult := rfl
@[simp] theorem emit_qmem (e : Event) : (emit e s).qmem = s.qmem := rfl
@[simp] theorem emit_qhead (e : Event) : (emit e s).qhead = s.qhead := rfl
@[simp] theorem emit_qlen (e : Event) : (emit e s).qlen = s.qlen := rfl
@[simp] theorem emit_qovf (e : Event) : (emit e s).qovf = s.qovf := rfl
@[simp] theorem emit_dlyStart (e : Event) : (emit e s).dlyStart = s.dlyStart := rfl
@[simp] theorem emit_dlyDur (e : Event) : (emit e s).dlyDur = s.dlyDur := rfl
@[simp] theorem emit_zones (e : Event) : (emit e s).zones = s.zones := rfl
@[simp] theorem emit_trace (e : Event) : (emit e s).trace = s.trace ++ [e] := rfl
@[simp] theorem emit_response (e : Event) : (emit e s).response = s.response := rfl
@[simp] theorem emit_inp (e : Event) : (emit e s).inp = s.inp := rfl
@[simp] theorem emit_draws (e : Event) : (emit e s).draws = s.draws := rfl
@[simp] theorem emit_pending (e : Event) : (emit e s).pending = s.pending := rfl

/-! ### `respond` (00_scope.md R14) -/

@[simp] theorem respond_cfg (v : Word) : (respond v s).cfg = s.cfg := rfl
@[simp] theorem respond_tmem (v : Word) : (respond v s).tmem = s.tmem := rfl
@[simp] theorem respond_mode (v : Word) : (respond v s).mode = s.mode := rfl
@[simp] theorem respond_paused (v : Word) : (respond v s).paused = s.paused := rfl
@[simp] theorem respond_pfault (v : Word) : (respond v s).pfault = s.pfault := rfl
@[simp] theorem respond_dresult (v : Word) : (respond v s).dresult = s.dresult := rfl
@[simp] theorem respond_qmem (v : Word) : (respond v s).qmem = s.qmem := rfl
@[simp] theorem respond_qhead (v : Word) : (respond v s).qhead = s.qhead := rfl
@[simp] theorem respond_qlen (v : Word) : (respond v s).qlen = s.qlen := rfl
@[simp] theorem respond_qovf (v : Word) : (respond v s).qovf = s.qovf := rfl
@[simp] theorem respond_dlyStart (v : Word) : (respond v s).dlyStart = s.dlyStart := rfl
@[simp] theorem respond_dlyDur (v : Word) : (respond v s).dlyDur = s.dlyDur := rfl
@[simp] theorem respond_zones (v : Word) : (respond v s).zones = s.zones := rfl
@[simp] theorem respond_trace (v : Word) : (respond v s).trace = s.trace := rfl
@[simp] theorem respond_response (v : Word) : (respond v s).response = v := rfl
@[simp] theorem respond_inp (v : Word) : (respond v s).inp = s.inp := rfl
@[simp] theorem respond_draws (v : Word) : (respond v s).draws = s.draws := rfl
@[simp] theorem respond_pending (v : Word) : (respond v s).pending = s.pending := rfl

/-! ### writing one zone's registers -/

@[simp] theorem setZone_cfg (z : ZoneNum) (u : Zone) : (setZone z u s).cfg = s.cfg := rfl
@[simp] theorem setZone_tmem (z : ZoneNum) (u : Zone) : (setZone z u s).tmem = s.tmem := rfl
@[simp] theorem setZone_mode (z : ZoneNum) (u : Zone) : (setZone z u s).mode = s.mode := rfl
@[simp] theorem setZone_paused (z : ZoneNum) (u : Zone) : (setZone z u s).paused = s.paused := rfl
@[simp] theorem setZone_pfault (z : ZoneNum) (u : Zone) : (setZone z u s).pfault = s.pfault := rfl
@[simp] theorem setZone_dresult (z : ZoneNum) (u : Zone) : (setZone z u s).dresult = s.dresult := rfl
@[simp] theorem setZone_qmem (z : ZoneNum) (u : Zone) : (setZone z u s).qmem = s.qmem := rfl
@[simp] theorem setZone_qhead (z : ZoneNum) (u : Zone) : (setZone z u s).qhead = s.qhead := rfl
@[simp] theorem setZone_qlen (z : ZoneNum) (u : Zone) : (setZone z u s).qlen = s.qlen := rfl
@[simp] theorem setZone_qovf (z : ZoneNum) (u : Zone) : (setZone z u s).qovf = s.qovf := rfl
@[simp] theorem setZone_dlyStart (z : ZoneNum) (u : Zone) : (setZone z u s).dlyStart = s.dlyStart := rfl
@[simp] theorem setZone_dlyDur (z : ZoneNum) (u : Zone) : (setZone z u s).dlyDur = s.dlyDur := rfl
@[simp] theorem setZone_zones (z : ZoneNum) (u : Zone) : (setZone z u s).zones = s.zones.set z.toNat u := rfl
@[simp] theorem setZone_trace (z : ZoneNum) (u : Zone) : (setZone z u s).trace = s.trace := rfl
@[simp] theorem setZone_response (z : ZoneNum) (u : Zone) : (setZone z u s).response = s.response := rfl
@[simp] theorem setZone_inp (z : ZoneNum) (u : Zone) : (setZone z u s).inp = s.inp := rfl
@[simp] theorem setZone_draws (z : ZoneNum) (u : Zone) : (setZone z u s).draws = s.draws := rfl
@[simp] theorem setZone_pending (z : ZoneNum) (u : Zone) : (setZone z u s).pending = s.pending := rfl

/-! ### `set_fault`: exactly the status bit (60_exceptions.md R278) -/

@[simp] theorem setFault_cfg (f : BlockFault) : (setFault f s).cfg = s.cfg := by cases f <;> rfl
@[simp] theorem setFault_tmem (f : BlockFault) : (setFault f s).tmem = s.tmem := by cases f <;> rfl
@[simp] theorem setFault_mode (f : BlockFault) : (setFault f s).mode = s.mode := by cases f <;> rfl
@[simp] theorem setFault_paused (f : BlockFault) : (setFault f s).paused = s.paused := by cases f <;> rfl
@[simp] theorem setFault_pfault (f : BlockFault) : (setFault f s).pfault = (decide (f = .protocol) || s.pfault) := by cases f <;> rfl
@[simp] theorem setFault_dresult (f : BlockFault) : (setFault f s).dresult = s.dresult := by cases f <;> rfl
@[simp] theorem setFault_qmem (f : BlockFault) : (setFault f s).qmem = s.qmem := by cases f <;> rfl
@[simp] theorem setFault_qhead (f : BlockFault) : (setFault f s).qhead = s.qhead := by cases f <;> rfl
@[simp] theorem setFault_qlen (f : BlockFault) : (setFault f s).qlen = s.qlen := by cases f <;> rfl
@[simp] theorem setFault_qovf (f : BlockFault) : (setFault f s).qovf = (decide (f = .queueOverflow) || s.qovf) := by cases f <;> rfl
@[simp] theorem setFault_dlyStart (f : BlockFault) : (setFault f s).dlyStart = s.dlyStart := by cases f <;> rfl
@[simp] theorem setFault_dlyDur (f : BlockFault) : (setFault f s).dlyDur = s.dlyDur := by cases f <;> rfl
@[simp] theorem setFault_zones (f : BlockFault) : (setFault f s).zones = s.zones := by cases f <;> rfl
@[simp] theorem setFault_trace (f : BlockFault) : (setFault f s).trace = s.trace := by cases f <;> rfl
@[simp] theorem setFault_response (f : BlockFault) : (setFault f s).response = s.response := by cases f <;> rfl
@[simp] theorem setFault_inp (f : BlockFault) : (setFault f s).inp = s.inp := by cases f <;> rfl
@[simp] theorem setFault_draws (f : BlockFault) : (setFault f s).draws = s.draws := by cases f <;> rfl
@[simp] theorem setFault_pending (f : BlockFault) : (setFault f s).pending = s.pending := by cases f <;> rfl

/-! ### RESET_COMMANDS (42_dispatcher.md R206) -/

@[simp] theorem resetDispatcher_cfg : (resetDispatcher s).cfg = s.cfg := rfl
@[simp] theorem resetDispatcher_tmem : (resetDispatcher s).tmem = s.tmem := rfl
@[simp] theorem resetDispatcher_mode : (resetDispatcher s).mode = .ready := rfl
@[simp] theorem resetDispatcher_paused : (resetDispatcher s).paused = s.paused := rfl
@[simp] theorem resetDispatcher_pfault : (resetDispatcher s).pfault = false := rfl
@[simp] theorem resetDispatcher_dresult : (resetDispatcher s).dresult = .notAttempted := rfl
@[simp] theorem resetDispatcher_qmem : (resetDispatcher s).qmem = s.qmem := rfl
@[simp] theorem resetDispatcher_qhead : (resetDispatcher s).qhead = 0 := rfl
@[simp] theorem resetDispatcher_qlen : (resetDispatcher s).qlen = 0 := rfl
@[simp] theorem resetDispatcher_qovf : (resetDispatcher s).qovf = false := rfl
@[simp] theorem resetDispatcher_dlyStart : (resetDispatcher s).dlyStart = 0 := rfl
@[simp] theorem resetDispatcher_dlyDur : (resetDispatcher s).dlyDur = 0 := rfl
@[simp] theorem resetDispatcher_zones : (resetDispatcher s).zones = s.zones := rfl
@[simp] theorem resetDispatcher_trace : (resetDispatcher s).trace = s.trace := rfl
@[simp] theorem resetDispatcher_response : (resetDispatcher s).response = s.response := rfl
@[simp] theorem resetDispatcher_inp : (resetDispatcher s).inp = s.inp := rfl
@[simp] theorem resetDispatcher_draws : (resetDispatcher s).draws = s.draws := rfl
@[simp] theorem resetDispatcher_pending : (resetDispatcher s).pending = s.pending := rfl

/-! ### block reset (70_reset_and_hazards.md R301) -/

@[simp] theorem blockReset_cfg : (blockReset s).cfg = s.cfg := rfl
@[simp] theorem blockReset_tmem : (blockReset s).tmem = s.tmem := rfl
@[simp] theorem blockReset_mode : (blockReset s).mode = .ready := rfl
@[simp] theorem blockReset_paused : (blockReset s).paused = false := rfl
@[simp] theorem blockReset_pfault : (blockReset s).pfault = false := rfl
@[simp] theorem blockReset_dresult : (blockReset s).dresult = .notAttempted := rfl
@[simp] theorem blockReset_qmem : (blockReset s).qmem = [] := rfl
@[simp] theorem blockReset_qhead : (blockReset s).qhead = 0 := rfl
@[simp] theorem blockReset_qlen : (blockReset s).qlen = 0 := rfl
@[simp] theorem blockReset_qovf : (blockReset s).qovf = false := rfl
@[simp] theorem blockReset_dlyStart : (blockReset s).dlyStart = 0 := rfl
@[simp] theorem blockReset_dlyDur : (blockReset s).dlyDur = 0 := rfl
@[simp] theorem blockReset_zones : (blockReset s).zones = s.cfg.zones.map fun _ => Zone.reset s.cfg := rfl
@[simp] theorem blockReset_trace : (blockReset s).trace = [] := rfl
@[simp] theorem blockReset_response : (blockReset s).response = 0 := rfl
@[simp] theorem blockReset_inp : (blockReset s).inp = s.inp := rfl
@[simp] theorem blockReset_draws : (blockReset s).draws = s.draws := rfl
@[simp] theorem blockReset_pending : (blockReset s).pending = s.pending := rfl

/-! ### placing the next host word -/

@[simp] theorem placeHostWord_cfg (w : Word) : (placeHostWord w s).cfg = s.cfg := rfl
@[simp] theorem placeHostWord_tmem (w : Word) : (placeHostWord w s).tmem = s.tmem := rfl
@[simp] theorem placeHostWord_mode (w : Word) : (placeHostWord w s).mode = s.mode := rfl
@[simp] theorem placeHostWord_paused (w : Word) : (placeHostWord w s).paused = s.paused := rfl
@[simp] theorem placeHostWord_pfault (w : Word) : (placeHostWord w s).pfault = s.pfault := rfl
@[simp] theorem placeHostWord_dresult (w : Word) : (placeHostWord w s).dresult = s.dresult := rfl
@[simp] theorem placeHostWord_qmem (w : Word) : (placeHostWord w s).qmem = s.qmem := rfl
@[simp] theorem placeHostWord_qhead (w : Word) : (placeHostWord w s).qhead = s.qhead := rfl
@[simp] theorem placeHostWord_qlen (w : Word) : (placeHostWord w s).qlen = s.qlen := rfl
@[simp] theorem placeHostWord_qovf (w : Word) : (placeHostWord w s).qovf = s.qovf := rfl
@[simp] theorem placeHostWord_dlyStart (w : Word) : (placeHostWord w s).dlyStart = s.dlyStart := rfl
@[simp] theorem placeHostWord_dlyDur (w : Word) : (placeHostWord w s).dlyDur = s.dlyDur := rfl
@[simp] theorem placeHostWord_zones (w : Word) : (placeHostWord w s).zones = s.zones := rfl
@[simp] theorem placeHostWord_trace (w : Word) : (placeHostWord w s).trace = s.trace := rfl
@[simp] theorem placeHostWord_response (w : Word) : (placeHostWord w s).response = s.response := rfl
@[simp] theorem placeHostWord_inp (w : Word) : (placeHostWord w s).inp = s.inp := rfl
@[simp] theorem placeHostWord_draws (w : Word) : (placeHostWord w s).draws = s.draws := rfl
@[simp] theorem placeHostWord_pending (w : Word) : (placeHostWord w s).pending = .transaction w s.inp :: s.pending := rfl

/-! ### a reserved host word (30_encoding.md R103) -/

@[simp] theorem reservedWord_cfg : (reservedWord s).cfg = s.cfg := rfl
@[simp] theorem reservedWord_tmem : (reservedWord s).tmem = s.tmem := rfl
@[simp] theorem reservedWord_mode : (reservedWord s).mode = s.mode := rfl
@[simp] theorem reservedWord_paused : (reservedWord s).paused = s.paused := rfl
@[simp] theorem reservedWord_pfault : (reservedWord s).pfault = s.pfault := rfl
@[simp] theorem reservedWord_dresult : (reservedWord s).dresult = s.dresult := rfl
@[simp] theorem reservedWord_qmem : (reservedWord s).qmem = s.qmem := rfl
@[simp] theorem reservedWord_qhead : (reservedWord s).qhead = s.qhead := rfl
@[simp] theorem reservedWord_qlen : (reservedWord s).qlen = s.qlen := rfl
@[simp] theorem reservedWord_qovf : (reservedWord s).qovf = s.qovf := rfl
@[simp] theorem reservedWord_dlyStart : (reservedWord s).dlyStart = s.dlyStart := rfl
@[simp] theorem reservedWord_dlyDur : (reservedWord s).dlyDur = s.dlyDur := rfl
@[simp] theorem reservedWord_zones : (reservedWord s).zones = s.zones := rfl
@[simp] theorem reservedWord_trace : (reservedWord s).trace = s.trace := rfl
@[simp] theorem reservedWord_response : (reservedWord s).response = 0 := rfl
@[simp] theorem reservedWord_inp : (reservedWord s).inp = s.inp := rfl
@[simp] theorem reservedWord_draws : (reservedWord s).draws = s.draws := rfl
@[simp] theorem reservedWord_pending : (reservedWord s).pending = s.pending := rfl

/-! ### INCOMPLETE (43_wire_commands.md R244) -/

@[simp] theorem reportIncomplete_cfg : (reportIncomplete s).cfg = s.cfg := rfl
@[simp] theorem reportIncomplete_tmem : (reportIncomplete s).tmem = s.tmem := rfl
@[simp] theorem reportIncomplete_mode : (reportIncomplete s).mode = s.mode := rfl
@[simp] theorem reportIncomplete_paused : (reportIncomplete s).paused = s.paused := rfl
@[simp] theorem reportIncomplete_pfault : (reportIncomplete s).pfault = s.pfault := rfl
@[simp] theorem reportIncomplete_dresult : (reportIncomplete s).dresult = .incomplete := rfl
@[simp] theorem reportIncomplete_qmem : (reportIncomplete s).qmem = s.qmem := rfl
@[simp] theorem reportIncomplete_qhead : (reportIncomplete s).qhead = s.qhead := rfl
@[simp] theorem reportIncomplete_qlen : (reportIncomplete s).qlen = s.qlen := rfl
@[simp] theorem reportIncomplete_qovf : (reportIncomplete s).qovf = s.qovf := rfl
@[simp] theorem reportIncomplete_dlyStart : (reportIncomplete s).dlyStart = s.dlyStart := rfl
@[simp] theorem reportIncomplete_dlyDur : (reportIncomplete s).dlyDur = s.dlyDur := rfl
@[simp] theorem reportIncomplete_zones : (reportIncomplete s).zones = s.zones := rfl
@[simp] theorem reportIncomplete_trace : (reportIncomplete s).trace = s.trace := rfl
@[simp] theorem reportIncomplete_response : (reportIncomplete s).response = s.response := rfl
@[simp] theorem reportIncomplete_inp : (reportIncomplete s).inp = s.inp := rfl
@[simp] theorem reportIncomplete_draws : (reportIncomplete s).draws = s.draws := rfl
@[simp] theorem reportIncomplete_pending : (reportIncomplete s).pending = s.pending := rfl

variable (u : Zone)

/-! ### F2 (60_exceptions.md R272) -/

@[simp] theorem setSensorFault_target : (setSensorFault u).target = u.target := rfl
@[simp] theorem setSensorFault_maxt : (setSensorFault u).maxt = u.maxt := rfl
@[simp] theorem setSensorFault_cur : (setSensorFault u).cur = u.cur := rfl
@[simp] theorem setSensorFault_acc : (setSensorFault u).acc = u.acc := rfl
@[simp] theorem setSensorFault_prev : (setSensorFault u).prev = u.prev := rfl
@[simp] theorem setSensorFault_duty : (setSensorFault u).duty = u.duty := rfl
@[simp] theorem setSensorFault_en : (setSensorFault u).en = u.en := rfl
@[simp] theorem setSensorFault_sfault : (setSensorFault u).sfault = true := rfl
@[simp] theorem setSensorFault_lastTick : (setSensorFault u).lastTick = u.lastTick := rfl
@[simp] theorem setSensorFault_hist : (setSensorFault u).hist = u.hist := rfl
@[simp] theorem setSensorFault_hidx : (setSensorFault u).hidx = u.hidx := rfl

/-! ### RING_PUSH (40_sampler.md R134) -/

@[simp] theorem ringPush_target (c : Config) (x : Sample) : (ringPush c x u).target = u.target := rfl
@[simp] theorem ringPush_maxt (c : Config) (x : Sample) : (ringPush c x u).maxt = u.maxt := rfl
@[simp] theorem ringPush_cur (c : Config) (x : Sample) : (ringPush c x u).cur = u.cur := rfl
@[simp] theorem ringPush_acc (c : Config) (x : Sample) : (ringPush c x u).acc = u.acc := rfl
@[simp] theorem ringPush_prev (c : Config) (x : Sample) : (ringPush c x u).prev = u.prev := rfl
@[simp] theorem ringPush_duty (c : Config) (x : Sample) : (ringPush c x u).duty = u.duty := rfl
@[simp] theorem ringPush_en (c : Config) (x : Sample) : (ringPush c x u).en = u.en := rfl
@[simp] theorem ringPush_sfault (c : Config) (x : Sample) : (ringPush c x u).sfault = u.sfault := rfl
@[simp] theorem ringPush_lastTick (c : Config) (x : Sample) : (ringPush c x u).lastTick = u.lastTick := rfl
@[simp] theorem ringPush_hist (c : Config) (x : Sample) : (ringPush c x u).hist = u.hist.set u.hidx.toNat x := rfl
@[simp] theorem ringPush_hidx (c : Config) (x : Sample) : (ringPush c x u).hidx = BitVec.ofNat 4 ((u.hidx.toNat + 1) % c.nHist) := rfl

/-! ### SENSOR_CHECK (40_sampler.md R137) -/

@[simp] theorem sensorCheck_target (c : Config) (x : Sample) : (sensorCheck c x u).target = u.target := by unfold sensorCheck; cases h : implausible c x <;> simp
@[simp] theorem sensorCheck_maxt (c : Config) (x : Sample) : (sensorCheck c x u).maxt = u.maxt := by unfold sensorCheck; cases h : implausible c x <;> simp
@[simp] theorem sensorCheck_cur (c : Config) (x : Sample) : (sensorCheck c x u).cur = u.cur := by unfold sensorCheck; cases h : implausible c x <;> simp
@[simp] theorem sensorCheck_acc (c : Config) (x : Sample) : (sensorCheck c x u).acc = u.acc := by unfold sensorCheck; cases h : implausible c x <;> simp
@[simp] theorem sensorCheck_prev (c : Config) (x : Sample) : (sensorCheck c x u).prev = u.prev := by unfold sensorCheck; cases h : implausible c x <;> simp
@[simp] theorem sensorCheck_duty (c : Config) (x : Sample) : (sensorCheck c x u).duty = u.duty := by unfold sensorCheck; cases h : implausible c x <;> simp
@[simp] theorem sensorCheck_en (c : Config) (x : Sample) : (sensorCheck c x u).en = u.en := by unfold sensorCheck; cases h : implausible c x <;> simp
@[simp] theorem sensorCheck_sfault (c : Config) (x : Sample) : (sensorCheck c x u).sfault = (implausible c x || u.sfault) := by unfold sensorCheck; cases h : implausible c x <;> simp
@[simp] theorem sensorCheck_lastTick (c : Config) (x : Sample) : (sensorCheck c x u).lastTick = u.lastTick := by unfold sensorCheck; cases h : implausible c x <;> simp
@[simp] theorem sensorCheck_hist (c : Config) (x : Sample) : (sensorCheck c x u).hist = u.hist := by unfold sensorCheck; cases h : implausible c x <;> simp
@[simp] theorem sensorCheck_hidx (c : Config) (x : Sample) : (sensorCheck c x u).hidx = u.hidx := by unfold sensorCheck; cases h : implausible c x <;> simp

/-! ### the control law's writes (41_heater.md R161) -/

@[simp] theorem controlStep_target (c : Config) (p : ZoneParams) : (controlStep c p u).target = u.target := rfl
@[simp] theorem controlStep_maxt (c : Config) (p : ZoneParams) : (controlStep c p u).maxt = u.maxt := rfl
@[simp] theorem controlStep_cur (c : Config) (p : ZoneParams) : (controlStep c p u).cur = u.cur := rfl
@[simp] theorem controlStep_acc (c : Config) (p : ZoneParams) : (controlStep c p u).acc = lawAcc p u := rfl
@[simp] theorem controlStep_prev (c : Config) (p : ZoneParams) : (controlStep c p u).prev = u.cur := rfl
@[simp] theorem controlStep_duty (c : Config) (p : ZoneParams) : (controlStep c p u).duty = forcedDuty u (lawOutput c p u) := rfl
@[simp] theorem controlStep_en (c : Config) (p : ZoneParams) : (controlStep c p u).en = u.en := rfl
@[simp] theorem controlStep_sfault (c : Config) (p : ZoneParams) : (controlStep c p u).sfault = u.sfault := rfl
@[simp] theorem controlStep_lastTick (c : Config) (p : ZoneParams) : (controlStep c p u).lastTick = u.lastTick := rfl
@[simp] theorem controlStep_hist (c : Config) (p : ZoneParams) : (controlStep c p u).hist = u.hist := rfl
@[simp] theorem controlStep_hidx (c : Config) (p : ZoneParams) : (controlStep c p u).hidx = u.hidx := rfl

/-! ### The sampling step (40_sampler.md R132) -/

@[simp] theorem sampleStep_target (c : Config) (t : Calibration) (p : ZoneParams) (rs : List Sample) :
    (sampleStep c t p rs u).target = u.target := by
  simp [sampleStep, ringAverage]
@[simp] theorem sampleStep_maxt (c : Config) (t : Calibration) (p : ZoneParams) (rs : List Sample) :
    (sampleStep c t p rs u).maxt = u.maxt := by
  simp [sampleStep, ringAverage]
@[simp] theorem sampleStep_cur (c : Config) (t : Calibration) (p : ZoneParams) (rs : List Sample) :
    (sampleStep c t p rs u).cur = BitVec.ofInt 16 (mapTemperature c t p
      (meanOver c.nHist (u.hist.set u.hidx.toNat (sampleRaw c rs)))) := by
  simp [sampleStep, ringAverage]
@[simp] theorem sampleStep_acc (c : Config) (t : Calibration) (p : ZoneParams) (rs : List Sample) :
    (sampleStep c t p rs u).acc = u.acc := by
  simp [sampleStep, ringAverage]
@[simp] theorem sampleStep_prev (c : Config) (t : Calibration) (p : ZoneParams) (rs : List Sample) :
    (sampleStep c t p rs u).prev = u.prev := by
  simp [sampleStep, ringAverage]
@[simp] theorem sampleStep_duty (c : Config) (t : Calibration) (p : ZoneParams) (rs : List Sample) :
    (sampleStep c t p rs u).duty = u.duty := by
  simp [sampleStep, ringAverage]
@[simp] theorem sampleStep_en (c : Config) (t : Calibration) (p : ZoneParams) (rs : List Sample) :
    (sampleStep c t p rs u).en = u.en := by
  simp [sampleStep, ringAverage]
@[simp] theorem sampleStep_sfault (c : Config) (t : Calibration) (p : ZoneParams) (rs : List Sample) :
    (sampleStep c t p rs u).sfault = (implausible c (sampleRaw c rs) || u.sfault) := by
  simp [sampleStep, ringAverage]
@[simp] theorem sampleStep_lastTick (c : Config) (t : Calibration) (p : ZoneParams) (rs : List Sample) :
    (sampleStep c t p rs u).lastTick = u.lastTick := by
  simp [sampleStep, ringAverage]
@[simp] theorem sampleStep_hist (c : Config) (t : Calibration) (p : ZoneParams) (rs : List Sample) :
    (sampleStep c t p rs u).hist = u.hist.set u.hidx.toNat (sampleRaw c rs) := by
  simp [sampleStep, ringAverage]
@[simp] theorem sampleStep_hidx (c : Config) (t : Calibration) (p : ZoneParams) (rs : List Sample) :
    (sampleStep c t p rs u).hidx = BitVec.ofNat 4 ((u.hidx.toNat + 1) % c.nHist) := by
  simp [sampleStep, ringAverage]

end Sys2Proof.Machine
end

