-- ==== Sys2Proof/Laws/Memory.lean ====
section
/-! SUPPORT. The laws of QMEM: a read after a write, and the canonical form (20_memory.md R70, R73). -/

namespace Sys2Proof.Machine

/-- A read of the written index gives the byte written; every other index reads as before. -/
theorem Memory.read_write (m : Memory) (a : Nat) (b : Byte) (a' : Nat) :
    (m.write a b).read a' = if a' = a then some b else m.read a' := by
  induction m with
  | nil =>
    simp only [Memory.write, Memory.read]
    split_ifs <;> first | rfl | omega
  | cons c m ih =>
    obtain ⟨k, v⟩ := c
    simp only [Memory.write]
    split_ifs with h1 h2 h3 <;> simp only [Memory.read] <;> (try rw [ih]) <;> split_ifs <;> first | rfl | omega

/-- The indices of a written memory: the old ones and the written one. -/
theorem Memory.mem_write {m : Memory} {a : Nat} {b : Byte} {c : Host.Cell} (h : c ∈ m.write a b) :
    c = (a, b) ∨ c ∈ m := by
  induction m with
  | nil => exact .inl (by simpa [Memory.write] using h)
  | cons d m ih =>
    obtain ⟨k, v⟩ := d
    simp only [Memory.write] at h
    split_ifs at h with h1 h2
    · simpa using h
    · rcases List.mem_cons.1 h with h | h
      · exact .inl h
      · exact .inr (List.mem_cons_of_mem _ h)
    · rcases List.mem_cons.1 h with h | h
      · exact .inr (by simp [h])
      · exact (ih h).imp_right (List.mem_cons_of_mem _)

/-- A write keeps the canonical form. -/
theorem Memory.write_wf {m : Memory} (h : m.wf = true) (a : Nat) (b : Byte) : (m.write a b).wf = true := by
  simp only [Memory.wf, decide_eq_true_eq] at *
  induction m with
  | nil => simp [Memory.write]
  | cons c m ih =>
    obtain ⟨k, v⟩ := c
    obtain ⟨hk, hm⟩ := List.pairwise_cons.1 h
    simp only [Memory.write]
    split_ifs with h1 h2
    · refine List.pairwise_cons.2 ⟨fun d hd => ?_, h⟩
      rcases List.mem_cons.1 hd with rfl | hd
      · exact h1
      · exact lt_trans h1 (hk d hd)
    · subst h2; exact List.pairwise_cons.2 ⟨hk, hm⟩
    · refine List.pairwise_cons.2 ⟨fun d hd => ?_, ih hm⟩
      rcases Memory.mem_write hd with rfl | hd
      · show k < a; omega
      · exact hk d hd

/-- A listed index of a canonical memory reads as its entry. -/
theorem Memory.read_eq_some {m : Memory} (h : m.wf = true) {a : Nat} {b : Byte} :
    m.read a = some b ↔ (a, b) ∈ m := by
  simp only [Memory.wf, decide_eq_true_eq] at h
  induction m with
  | nil => simp [Memory.read]
  | cons c m ih =>
    obtain ⟨k, v⟩ := c
    obtain ⟨hk, hm⟩ := List.pairwise_cons.1 h
    simp only [Memory.read]
    split_ifs with h1
    · subst h1
      constructor
      · intro e; simp [Option.some.inj e]
      · intro e
        rcases List.mem_cons.1 e with e | e
        · simp [Prod.mk.injEq] at e; simp [e]
        · exact absurd (hk _ e) (lt_irrefl _)
    · rw [ih hm]
      simp only [List.mem_cons, Prod.mk.injEq]
      constructor
      · exact .inr
      · rintro (⟨e, -⟩ | e)
        · exact absurd e.symm h1
        · exact e

/-- Canonical memories that read alike are equal data. -/
theorem Memory.ext_of_wf {m n : Memory} (hm : m.wf = true) (hn : n.wf = true) (h : ∀ a, m.read a = n.read a) :
    m = n := by
  have hmem : ∀ c, c ∈ m ↔ c ∈ n := fun ⟨a, b⟩ => by
    rw [← Memory.read_eq_some hm, ← Memory.read_eq_some hn, h]
  simp only [Memory.wf, decide_eq_true_eq] at hm hn
  refine List.Perm.eq_of_pairwise (le := fun a b : Host.Cell => a.1 < b.1) ?_ hm hn ?_
  · intro a b _ _ h1 h2; omega
  · refine (List.perm_ext_iff_of_nodup ?_ ?_).2 hmem
    · exact hm.imp fun h e => by rw [e] at h; exact lt_irrefl _ h
    · exact hn.imp fun h e => by rw [e] at h; exact lt_irrefl _ h

/-- Storing bytes from a queue position on keeps the canonical form. -/
theorem queueStore_wf (s : State) (bs : List Byte) : ∀ (k : Nat) (m : Memory), m.wf = true →
    (queueStore s k bs m).wf = true := by
  induction bs with
  | nil => intro k m h; exact h
  | cons b bs ih => intro k m h; exact ih _ _ (Memory.write_wf h _ _)

/-- The memory of every operation that writes one is canonical if the state's is; RUN_SLICE and the wire commands
write none. -/
theorem queuePush_wf (s : State) (b : Byte) (h : s.qmem.wf = true) : (queuePush b s).qmem.wf = true :=
  Memory.write_wf h _ _

/-- The memory after block reset is canonical. -/
theorem reset_memory_wf : State.reset.qmem.wf = true := rfl

end Sys2Proof.Machine
end

