-- ==== Sys2Proof/Laws/Queue.lean ====
section
/-! SUPPORT. What the queue's operations can do, said once: the ring as a byte sequence (20_memory.md R73), and the
outcomes of decoding and dispatch (43_wire_commands.md). -/

namespace Sys2Proof.Machine

@[simp] theorem queueWindow_length (s : State) : (queueWindow s).length = s.qlen.toNat := by simp [queueWindow]

/-- Operations that leave the configuration and the queue's registers alone leave the window alone. -/
theorem queueWindow_congr {s t : State} (hc : t.cfg = s.cfg) (hm : t.qmem = s.qmem) (hh : t.qhead = s.qhead)
    (hl : t.qlen = s.qlen) : queueWindow t = queueWindow s := by
  simp [queueWindow, queuePeek, queueCell, queueIndex, hc, hm, hh, hl]

/-- Two queue positions less than `Q_CAP` apart have different buffer indices. -/
theorem mod_add_ne {q a i j : Nat} (hi : i < j) (hj : j < i + q) : (a + i) % q ≠ (a + j) % q := by
  intro h
  have h1 : (j - i) % q = 0 := by
    have : (a + i + (j - i)) % q = (a + i) % q := by rw [h]; congr 1; omega
    rw [Nat.add_mod] at this
    have hq : 0 < q := by omega
    have h2 := Nat.mod_lt (a + i) hq
    have h3 := Nat.mod_lt (j - i) hq
    rcases Nat.lt_or_ge ((a + i) % q + (j - i) % q) q with h4 | h4
    · rw [Nat.mod_eq_of_lt h4] at this; omega
    · rw [Nat.mod_eq_sub_mod h4, Nat.mod_eq_of_lt (by omega)] at this; omega
  rw [Nat.mod_eq_of_lt (by omega)] at h1; omega

/-- `Q.push` appends its byte to the window. -/
theorem queueWindow_push (s : State) (b : Byte) (h : s.qlen.toNat < s.cfg.qCap) (hq : s.cfg.qCap ≤ 65535) :
    queueWindow (queuePush b s) = queueWindow s ++ [b] := by
  have hl : (s.qlen + 1).toNat = s.qlen.toNat + 1 := by
    rw [BitVec.toNat_add]; simp; omega
  simp only [queueWindow, queuePush_qlen, hl, List.range_succ, List.map_append, List.map_cons, List.map_nil]
  congr 1
  · refine List.map_congr_left fun k hk => ?_
    have hk := List.mem_range.1 hk
    simp only [queuePeek, queueCell, queueIndex, queuePush_qmem, queuePush_cfg, queuePush_qhead, Memory.read_write]
    rw [if_neg (mod_add_ne hk (by omega))]
  · simp [queuePeek, queueCell, queueIndex, Memory.read_write]

/-- `Q.pop(n)` drops the first `n` bytes of the window. -/
theorem queueWindow_pop (s : State) (n : Nat) (h : n ≤ s.qlen.toNat) (h0 : 0 < s.cfg.qCap)
    (hq : s.cfg.qCap ≤ 65535) : queueWindow (queuePop n s) = (queueWindow s).drop n := by
  have hl : (s.qlen - BitVec.ofNat 16 n).toNat = s.qlen.toNat - n := by
    have := s.qlen.isLt
    rw [BitVec.toNat_sub, BitVec.toNat_ofNat]; omega
  have hh : (BitVec.ofNat 16 (queueIndex s n)).toNat = queueIndex s n := by
    have := Nat.mod_lt (s.qhead.toNat + n) h0
    rw [BitVec.toNat_ofNat]; exact Nat.mod_eq_of_lt (by unfold queueIndex; omega)
  refine List.ext_getElem (by simp [hl]) fun k h1 h2 => ?_
  simp only [List.getElem_drop, queueWindow, List.getElem_map, List.getElem_range]
  simp only [queuePeek, queueCell, queuePop_qmem]
  have : queueIndex (queuePop n s) k = queueIndex s (n + k) := by
    simp only [queueIndex, queuePop_qhead, queuePop_cfg]
    unfold queueIndex at hh
    rw [hh, Nat.mod_add_mod]; congr 1; omega
  rw [this]

/-- `Q.clear` leaves an empty window. -/
@[simp] theorem queueWindow_clear (s : State) : queueWindow (queueClear s) = [] := by simp [queueWindow]

/-- The opcode byte of a non-empty queue is the head of its window. -/
theorem queueWindow_head {s : State} {op : Byte} {rest : List Byte} (h : queueWindow s = op :: rest) :
    op = queuePeek s 0 ∧ s.qlen.toNat = rest.length + 1 := by
  have hl := queueWindow_length s
  rw [h, List.length_cons] at hl
  refine ⟨?_, hl.symm⟩
  have : (queueWindow s)[0]? = some op := by rw [h]; rfl
  simp only [queueWindow, List.getElem?_map, List.getElem?_range (show 0 < s.qlen.toNat by omega)] at this
  exact (Option.some.inj this).symm

/-- What `dispatch` can do: INCOMPLETE and nothing else, or the popped and performed command. -/
theorem dispatch_cases (n : Nat) (f : State → State) (s : State) :
    (s.qlen.toNat < n ∧ dispatch n f s = reportIncomplete s) ∨
    (n ≤ s.qlen.toNat ∧ dispatch n f s = { f (queuePop n s) with dresult := .dispatched }) := by
  unfold dispatch
  split
  · exact .inl ⟨‹_›, rfl⟩
  · exact .inr ⟨by omega, rfl⟩

/-- What RUN_SLICE's steps 1 and 2 can do: nothing, or leave MOVING or DELAY for READY (42_dispatcher.md R204). -/
theorem complete_cases (s : State) :
    completeDelay (completeMove s) = s ∨
    ((s.mode = .moving ∧ s.inp.running = false) ∨
      (s.mode = .delay ∧ elapsed s.inp.now s.dlyStart ≥ s.dlyDur.toNat)) ∧
    completeDelay (completeMove s) = { s with mode := .ready } := by
  unfold completeMove
  split
  · next h => exact .inr ⟨.inl h, by simp [completeDelay]⟩
  · unfold completeDelay
    split
    · next h => exact .inr ⟨.inr h, rfl⟩
    · exact .inl rfl

/-- What step 3 can do: nothing but DRESULT = NONE, or decode the head of the queue (42_dispatcher.md R205). -/
theorem decodeStep_cases (s : State) :
    (¬(s.mode = .ready ∧ s.pfault = false ∧ 1 ≤ s.qlen.toNat) ∧
      decodeStep s = { s with dresult := .notAttempted }) ∨
    (s.mode = .ready ∧ s.pfault = false ∧ 1 ≤ s.qlen.toNat ∧ decodeStep s = decodeHead s) := by
  unfold decodeStep
  split
  · next h => exact .inr ⟨h.1, h.2.1, h.2.2, rfl⟩
  · next h => exact .inl ⟨h, rfl⟩

/-- What the fetch can answer. -/
theorem fetch_cases (s : State) :
    (s.pending = [] ∧ fetch s = .idle) ∨
    (∃ rest, s.pending = .blockReset :: rest ∧ fetch s = .reset { s with pending := rest }) ∨
    (∃ w inp rest, s.pending = .transaction w inp :: rest ∧
      fetch s = .host w { s with pending := rest, inp := inp }) := by
  unfold fetch
  cases h : s.pending with
  | nil => exact .inl ⟨rfl, rfl⟩
  | cons a rest =>
    cases a with
    | blockReset => exact .inr (.inl ⟨rest, rfl, rfl⟩)
    | transaction w inp => exact .inr (.inr ⟨w, inp, rest, rfl, rfl⟩)

/-- What a step that answers a next state did: held the state, took a block reset, or performed one transaction. -/
theorem step_cases {s t : State} (h : step s = .next t) :
    legalConfig s.cfg = true ∧
    ((s.pending = [] ∧ t = s) ∨
     (∃ rest, s.pending = .blockReset :: rest ∧ t = blockReset { s with pending := rest }) ∨
     (∃ w inp rest, s.pending = .transaction w inp :: rest ∧
        exec (decodeHost w) { s with pending := rest, inp := inp } = .next t)) := by
  unfold step at h
  split at h
  · refine ⟨‹_›, ?_⟩
    rcases fetch_cases s with ⟨hp, hf⟩ | ⟨rest, hp, hf⟩ | ⟨w, inp, rest, hp, hf⟩ <;> rw [hf] at h
    · exact .inl ⟨hp, (Host.Outcome.next.inj h).symm⟩
    · exact .inr (.inl ⟨rest, hp, (Host.Outcome.next.inj h).symm⟩)
    · exact .inr (.inr ⟨w, inp, rest, hp, h⟩)
  · cases h

/-- What a zone operation can do: respond 0 for a zone the block does not have, or its effect. -/
theorem zoneOp_cases (z : ZoneNum) (f : ZoneParams → Zone → State → State) (s : State) :
    (zoneUnit s z = none ∧ zoneOp z f s = respond 0 s) ∨
    (∃ p u, zoneUnit s z = some (p, u) ∧ zoneOp z f s = f p u s) := by
  unfold zoneOp
  cases h : zoneUnit s z with
  | none => exact .inl ⟨rfl, rfl⟩
  | some pu => exact .inr ⟨pu.1, pu.2, rfl, rfl⟩

/-- A zone the block has: its parameters and registers are entries `z` of both lists. -/
theorem zoneUnit_eq_some {s : State} {z : ZoneNum} {p : ZoneParams} {u : Zone} :
    zoneUnit s z = some (p, u) ↔ s.cfg.zones[z.toNat]? = some p ∧ s.zones[z.toNat]? = some u := by
  unfold zoneUnit
  cases s.cfg.zones[z.toNat]? <;> cases s.zones[z.toNat]? <;> simp

/-- A zone number at or above `NZONES` names no zone (30_encoding.md R103). -/
theorem zoneUnit_none_of_ge {s : State} {z : ZoneNum} (h : s.cfg.nZones ≤ z.toNat) : zoneUnit s z = none := by
  unfold zoneUnit
  rw [List.getElem?_eq_none (by simpa [Config.nZones] using h)]

/-- With one set of registers per zone, every zone number below `NZONES` names a zone. -/
theorem zoneUnit_of_lt {s : State} {z : ZoneNum} (hl : s.zones.length = s.cfg.nZones) (h : z.toNat < s.cfg.nZones) :
    ∃ p u, zoneUnit s z = some (p, u) :=
  ⟨s.cfg.zones[z.toNat]'h, s.zones[z.toNat]'(by omega), zoneUnit_eq_some.2
    ⟨List.getElem?_eq_getElem _, List.getElem?_eq_getElem _⟩⟩

/-- What a legal configuration promises (00_scope.md R10, R11). -/
theorem legalConfig_spec {c : Config} (h : legalConfig c = true) :
    1 ≤ c.kReads ∧ (1 ≤ c.nHist ∧ c.nHist ≤ 16) ∧ (1 ≤ c.nZones ∧ c.nZones ≤ 16) ∧ (2 ≤ c.tblN ∧ c.tblN ≤ 256) ∧
    1 ≤ c.tblSpacing ∧ 1 ≤ c.tcDen ∧ c.gainFrac ≤ 16 ∧ (1 ≤ c.maxDuty ∧ c.maxDuty ≤ 255) ∧
    c.tempInterval < 4294967296 ∧ (c.sfLo < c.sfHi ∧ c.sfHi ≤ adcMax) ∧ (17 ≤ c.qCap ∧ c.qCap ≤ 65535) ∧
    c.opc.distinct = true ∧ ∀ p ∈ c.zones, legalZone c p = true := by
  simp only [legalConfig, Bool.and_eq_true, decide_eq_true_eq, List.all_eq_true] at h
  tauto

/-- What a zone's legal parameters promise (00_scope.md R10, R11). -/
theorem legalZone_spec {c : Config} {p : ZoneParams} (h : legalZone c p = true) :
    (-2147483648 ≤ p.kp ∧ p.kp ≤ 2147483647) ∧ (-2147483648 ≤ p.ki ∧ p.ki ≤ 2147483647) ∧
    (-2147483648 ≤ p.kd ∧ p.kd ≤ 2147483647) ∧ (-2147483648 ≤ p.iMin ∧ p.iMin ≤ 0) ∧
    (0 ≤ p.iMax ∧ p.iMax ≤ 2147483647) ∧ p.bbSustain ≤ c.maxDuty := by
  simp only [legalZone, Bool.and_eq_true, decide_eq_true_eq] at h
  tauto

end Sys2Proof.Machine
end

