-- ==== Sys2Proof/Laws/Meanings.lean ====
section
/-! SUPPORT. What the meanings built over the shared operations can do, said once each, so that no later proof splits
them again. -/

namespace Sys2Proof.Machine

/-- Every instruction completes: the block has no trap (60_exceptions.md R270). -/
theorem exec_next (i : Instr) (s : State) : ∃ t, exec i s = .next t := by cases i <;> exact ⟨_, rfl⟩

/-- What PUSH_BYTE can do (42_dispatcher.md R201). -/
theorem pushByte_cases (b : Byte) (s : State) :
    (s.qlen.toNat < s.cfg.qCap ∧ pushByte b s = respond (pushResponse (queuePush b s) true) (queuePush b s)) ∨
    (s.cfg.qCap ≤ s.qlen.toNat ∧ pushByte b s = respond (pushResponse s false) (setFault .queueOverflow s)) := by
  unfold pushByte
  split
  · exact .inl ⟨‹_›, rfl⟩
  · exact .inr ⟨by omega, rfl⟩

/-- What an unrecognized opcode can do (43_wire_commands.md R246; on an empty queue nothing, log 12). -/
theorem unknownOpcode_cases (op : Byte) (s : State) :
    (s.qlen.toNat = 0 ∧ unknownOpcode op s = s) ∨
    (1 ≤ s.qlen.toNat ∧ unknownOpcode op s = { setFault .protocol (queuePop 1 s) with dresult := .protoFault }) := by
  unfold unknownOpcode
  split
  · exact .inl ⟨by omega, rfl⟩
  · exact .inr ⟨by omega, rfl⟩

/-- What RUN_SLICE can do (42_dispatcher.md R202, R203). -/
theorem runSlice_cases (s : State) :
    (s.paused = true ∧ runSlice s = respond (dstat s) s) ∨
    (s.paused = false ∧ runSlice s = respond (dstat (slice s)) (slice s)) := by
  unfold runSlice
  cases s.paused <;> simp

/-- What MANAGE_TEMPERATURE of a zone the block has can do (41_heater.md R161). -/
theorem manageZone_cases (z : ZoneNum) (p : ZoneParams) (u : Zone) (s : State) :
    (elapsed s.inp.now u.lastTick < s.cfg.tempInterval ∧ manageZone z p u s = respond (manageResponse false u) s) ∨
    (s.cfg.tempInterval ≤ elapsed s.inp.now u.lastTick ∧ manageZone z p u s = fireZone z p u s) := by
  unfold manageZone fires
  split
  · next h => exact .inr ⟨by simpa using h, rfl⟩
  · next h => exact .inl ⟨by simpa using h, rfl⟩

/-- What decoding the head of the queue can do: nothing on an empty queue, INCOMPLETE for a recognized opcode whose bytes
have not all arrived, else the command at the head (43_wire_commands.md R244, R245). -/
theorem decodeHead_cases (s : State) :
    (queueWindow s = [] ∧ decodeHead s = { s with dresult := .notAttempted }) ∨
    ∃ op rest, queueWindow s = op :: rest ∧
      ((s.cfg.opc.recognized op = true ∧ s.qlen.toNat < wireLength s.cfg.opc op ∧
          decodeHead s = reportIncomplete s) ∨
        (wireLength s.cfg.opc op ≤ s.qlen.toNat ∧
          decodeHead s = performWire (wireCommand s.cfg.opc op (queueWindow s)) s)) := by
  have hl := queueWindow_length s
  rcases decodeWire_cases s.cfg.opc (queueWindow s) with ⟨h, hd⟩ | ⟨op, rest, h, ⟨hlt, hd⟩ | ⟨hle, hd⟩⟩
  · exact .inl ⟨h, by simp [decodeHead, hd]⟩
  · refine .inr ⟨op, rest, h, .inl ⟨?_, by omega, by simp [decodeHead, hd]⟩⟩
    by_contra hr
    have h1 : wireLength s.cfg.opc op = 1 := by
      simp only [Opcodes.recognized, Bool.or_eq_true, beq_iff_eq, not_or] at hr
      simp [wireLength, hr]
    rw [h, List.length_cons] at hlt
    omega
  · exact .inr ⟨op, rest, h, .inr ⟨by omega, by simp [decodeHead, hd]⟩⟩

/-- What performing a wire command leaves alone, and what it can do to the rest (43_wire_commands.md R241 to R246). -/
theorem performWire_frame (i : Instr) (s : State) :
    (performWire i s).cfg = s.cfg ∧ (performWire i s).tmem = s.tmem ∧ (performWire i s).paused = s.paused ∧
    (performWire i s).qmem = s.qmem ∧ (performWire i s).qovf = s.qovf ∧ (performWire i s).zones = s.zones ∧
    (performWire i s).response = s.response ∧ (performWire i s).inp = s.inp ∧ (performWire i s).draws = s.draws ∧
    (performWire i s).pending = s.pending ∧ (s.pfault = true → (performWire i s).pfault = true) ∧
    ((performWire i s).mode = s.mode ∨ (performWire i s).mode = .moving ∨ (performWire i s).mode = .delay) ∧
    ((performWire i s).trace = s.trace ∨
      ∃ e, (performWire i s).trace = s.trace ++ [e] ∧ ∀ z d, e ≠ .writeDuty z d) := by
  cases i <;> simp [performWire, queuePointAbs, setPosition, delayCommand, unknownOpcode, dispatch] <;>
    split <;> simp

/-- What the slice of a dispatcher that is not paused leaves alone, and what it can do to the rest (42_dispatcher.md
R202). -/
theorem slice_frame (s : State) :
    (slice s).cfg = s.cfg ∧ (slice s).tmem = s.tmem ∧ (slice s).paused = s.paused ∧ (slice s).qmem = s.qmem ∧
    (slice s).qovf = s.qovf ∧ (slice s).zones = s.zones ∧ (slice s).response = s.response ∧ (slice s).inp = s.inp ∧
    (slice s).draws = s.draws ∧ (slice s).pending = s.pending ∧ (s.pfault = true → (slice s).pfault = true) ∧
    ((slice s).mode = .waitOnTool ↔ s.mode = .waitOnTool) ∧
    ((slice s).trace = s.trace ∨ ∃ e, (slice s).trace = s.trace ++ [e] ∧ ∀ z d, e ≠ .writeDuty z d) := by
  have hd : ∀ s : State, (decodeStep s).cfg = s.cfg ∧ (decodeStep s).tmem = s.tmem ∧
      (decodeStep s).paused = s.paused ∧ (decodeStep s).qmem = s.qmem ∧ (decodeStep s).qovf = s.qovf ∧
      (decodeStep s).zones = s.zones ∧ (decodeStep s).response = s.response ∧ (decodeStep s).inp = s.inp ∧
      (decodeStep s).draws = s.draws ∧ (decodeStep s).pending = s.pending ∧
      (s.pfault = true → (decodeStep s).pfault = true) ∧
      ((decodeStep s).mode = .waitOnTool ↔ s.mode = .waitOnTool) ∧
      ((decodeStep s).trace = s.trace ∨
        ∃ e, (decodeStep s).trace = s.trace ++ [e] ∧ ∀ z d, e ≠ .writeDuty z d) := by
    intro s
    rcases decodeStep_cases s with ⟨_, e⟩ | ⟨hm, _, _, e⟩ <;> rw [e]
    · simp
    · unfold decodeHead
      split
      · next i _ _ =>
        obtain ⟨h1, h2, h3, h4, h5, h6, h7, h8, h9, h10, h11, h12, h13⟩ := performWire_frame i s
        refine ⟨h1, h2, h3, h4, h5, h6, h7, h8, h9, h10, h11, ?_, h13⟩
        rcases h12 with h | h | h <;> simp [h, hm]
      · simp
      · simp
  unfold slice
  rcases complete_cases s with e | ⟨hm, e⟩ <;> rw [e]
  · exact hd s
  · have hw : s.mode ≠ .waitOnTool := by rcases hm with h | h <;> simp [h.1]
    have := hd { s with mode := .ready }
    simpa [hw] using this

/-- What the slice of a dispatcher that is not paused can do: `m` is the mode after steps 1 and 2; then step 3 is not
attempted, or reports INCOMPLETE, or performs the command at the head of the queue (42_dispatcher.md R202, R205). -/
theorem slice_cases (s : State) :
    ∃ m, (m = s.mode ∨ m = .ready) ∧
      (((m ≠ .ready ∨ s.pfault = true ∨ s.qlen = 0) ∧
          slice s = { s with mode := m, dresult := .notAttempted }) ∨
        (m = .ready ∧ s.pfault = false ∧ ∃ op rest, queueWindow s = op :: rest ∧
          ((s.cfg.opc.recognized op = true ∧ s.qlen.toNat < wireLength s.cfg.opc op ∧
              slice s = { s with mode := m, dresult := .incomplete }) ∨
            (wireLength s.cfg.opc op ≤ s.qlen.toNat ∧
              slice s = performWire (wireCommand s.cfg.opc op (queueWindow s)) { s with mode := m })))) := by
  obtain ⟨m, hm, h1⟩ : ∃ m, (m = s.mode ∨ m = .ready) ∧ completeDelay (completeMove s) = { s with mode := m } := by
    rcases complete_cases s with e | ⟨_, e⟩
    · exact ⟨s.mode, .inl rfl, e⟩
    · exact ⟨.ready, .inr rfl, e⟩
  refine ⟨m, hm, ?_⟩
  have hw : queueWindow { s with mode := m } = queueWindow s := queueWindow_congr rfl rfl rfl rfl
  unfold slice
  rw [h1]
  rcases decodeStep_cases { s with mode := m } with ⟨h, e⟩ | ⟨hr, hp, hq, e⟩ <;> rw [e]
  · refine .inl ⟨?_, rfl⟩
    by_contra hc
    simp only [not_or, Bool.not_eq_true] at hc
    refine h ⟨not_not.1 hc.1, hc.2.1, Nat.pos_of_ne_zero fun h0 => hc.2.2 (BitVec.eq_of_toNat_eq h0)⟩
  · rcases decodeHead_cases { s with mode := m } with ⟨h0, _⟩ | ⟨op, rest, hq', hd⟩
    · have hl := queueWindow_length { s with mode := m }
      rw [h0, List.length_nil] at hl
      omega
    · rw [hw] at hq' hd
      exact .inr ⟨hr, hp, op, rest, hq', hd⟩

/-- A temperature map answers a signed 16-bit value (40_sampler.md R139, R140). -/
theorem mapTemperature_range (c : Config) (t : Calibration) (p : ZoneParams) (a : Nat) :
    -32768 ≤ mapTemperature c t p a ∧ mapTemperature c t p a ≤ 32767 := by
  unfold mapTemperature thermistorT thermocoupleT interpolate
  have h := fun i => temp_range (tableEntry t p.tblOfs i).temp
  split
  · split_ifs
    · exact h _
    · exact h _
    · exact h _
    · exact clamp16_range _
  · exact clamp16_range _

/-- Truncating linear interpolation stays between its end points, whichever is the larger. -/
theorem interpolation_between {ta tb : Int} (x d : Int) (hx : 0 ≤ x) (hd : 0 < d) (hxd : x ≤ d) :
    (ta ≤ tb → ta ≤ ta + tdiv (x * (tb - ta)) d ∧ ta + tdiv (x * (tb - ta)) d ≤ tb) ∧
    (tb ≤ ta → tb ≤ ta + tdiv (x * (tb - ta)) d ∧ ta + tdiv (x * (tb - ta)) d ≤ ta) := by
  have e0 : tdiv 0 d = 0 := by simp [tdiv]
  have e1 : tdiv (d * (tb - ta)) d = tb - ta := by unfold tdiv; rw [Int.mul_tdiv_cancel_left _ (by omega)]
  constructor
  · intro h
    have h1 := tdiv_mono hd (show (0 : Int) ≤ x * (tb - ta) by apply mul_nonneg <;> omega)
    have h2 := tdiv_mono hd (show x * (tb - ta) ≤ d * (tb - ta) by apply mul_le_mul_of_nonneg_right <;> omega)
    omega
  · intro h
    have h1 := tdiv_mono hd (show x * (tb - ta) ≤ (0 : Int) by
      apply mul_nonpos_of_nonneg_of_nonpos <;> omega)
    have h2 := tdiv_mono hd (show d * (tb - ta) ≤ x * (tb - ta) by
      apply mul_le_mul_of_nonpos_right <;> omega)
    omega

/-- The control law's output is a duty (41_heater.md R166, R168). -/
theorem lawOutput_range {c : Config} {p : ZoneParams} (hp : legalZone c p = true) (u : Zone) :
    0 ≤ lawOutput c p u ∧ lawOutput c p u ≤ c.maxDuty := by
  have h1 := legalZone_spec hp
  unfold lawOutput
  split
  · have h := clamp_spec (gainTerm c p.kp (controlError u) + gainTerm c p.ki (nextAcc p u) -
      gainTerm c p.kd (u.cur.toInt - u.prev.toInt)) 0 c.maxDuty (by omega)
    exact ⟨h.1, h.2.1⟩
  · unfold bangBangOutput; split_ifs <;> omega

/-- The accumulator stays within its bounds (41_heater.md R166). -/
theorem nextAcc_range {c : Config} {p : ZoneParams} (hp : legalZone c p = true) (u : Zone) :
    p.iMin ≤ nextAcc p u ∧ nextAcc p u ≤ p.iMax := by
  have h1 := legalZone_spec hp
  have h := clamp_spec (u.acc.toInt + controlError u) p.iMin p.iMax (by omega)
  exact ⟨h.1, h.2.1⟩

/-- The written duty is at most full scale (10_state.md R44). -/
theorem forcedDuty_le {c : Config} (hm : c.maxDuty ≤ 255) {x : Int} (h0 : 0 ≤ x) (h1 : x ≤ c.maxDuty) (u : Zone) :
    (forcedDuty u x).toNat ≤ c.maxDuty := by
  unfold forcedDuty
  split
  · simp
  · simp only [BitVec.toNat_ofInt]; omega

end Sys2Proof.Machine
end

