-- ==== Sys2Proof/Laws/PerInstr.lean ====
section
/-! SUPPORT. Statements about every instruction as syntax, one lemma per constructor. -/

namespace Sys2Proof.Laws.EncodedLength

/-- The total length in bytes of an instruction: 4 for a host word (30_encoding.md R100); 17, 13, 5 or 1 for a wire
command (R110, R113, 43_wire_commands.md R246). -/
def lengthBytes : Instr → Nat
  | .queuePointAbs _ _ _ _ => 17
  | .setPosition _ _ _ => 13
  | .delay _ => 5
  | .unknownOpcode _ => 1
  | .nop | .pushByte _ | .runSlice | .resetCommands | .pause _ | .queryPaused | .manageTemperature _
  | .setTarget _ _ | .hasReached _ | .setEnable _ _ | .readDstat | .readZstat _
  | .reservedC | .reservedD | .reservedE | .reservedF => 4

/-- The length of an encoding in bytes. -/
def wordsBytes : Words → Nat
  | .host _ => 4
  | .wire bs => bs.length

/-- The encoding of a well-formed instruction has the length of its format; for a wire command it is the length
that its opcode byte alone decides (30_encoding.md R113). -/
def Statement (i : Instr) : Prop :=
  ∀ o : Opcodes, o.distinct = true → i.wellFormed o = true →
    wordsBytes (encode o i) = lengthBytes i ∧
    ∀ bs, encode o i = .wire bs → ∀ op ∈ bs.head?, wireLength o op = lengthBytes i

variable (b op : Byte) (f : Bool) (z : ZoneNum) (t : Temp) (x y w r : Word)

theorem nop : Statement .nop := by simp [Statement, encode, wordsBytes, lengthBytes]
theorem pushByte : Statement (.pushByte b) := by simp [Statement, encode, wordsBytes, lengthBytes]
theorem runSlice : Statement .runSlice := by simp [Statement, encode, wordsBytes, lengthBytes]
theorem resetCommands : Statement .resetCommands := by simp [Statement, encode, wordsBytes, lengthBytes]
theorem pause : Statement (.pause f) := by simp [Statement, encode, wordsBytes, lengthBytes]
theorem queryPaused : Statement .queryPaused := by simp [Statement, encode, wordsBytes, lengthBytes]
theorem manageTemperature : Statement (.manageTemperature z) := by simp [Statement, encode, wordsBytes, lengthBytes]
theorem setTarget : Statement (.setTarget z t) := by simp [Statement, encode, wordsBytes, lengthBytes]
theorem hasReached : Statement (.hasReached z) := by simp [Statement, encode, wordsBytes, lengthBytes]
theorem setEnable : Statement (.setEnable z f) := by simp [Statement, encode, wordsBytes, lengthBytes]
theorem readDstat : Statement .readDstat := by simp [Statement, encode, wordsBytes, lengthBytes]
theorem readZstat : Statement (.readZstat z) := by simp [Statement, encode, wordsBytes, lengthBytes]
theorem reservedC : Statement .reservedC := by simp [Statement, encode, wordsBytes, lengthBytes]
theorem reservedD : Statement .reservedD := by simp [Statement, encode, wordsBytes, lengthBytes]
theorem reservedE : Statement .reservedE := by simp [Statement, encode, wordsBytes, lengthBytes]
theorem reservedF : Statement .reservedF := by simp [Statement, encode, wordsBytes, lengthBytes]

theorem queuePointAbs : Statement (.queuePointAbs x y w r) := by
  intro o _ _
  refine ⟨rfl, fun bs h op hop => ?_⟩
  cases h; cases hop; simp [wireLength, lengthBytes]

theorem setPosition : Statement (.setPosition x y w) := by
  intro o hd _
  refine ⟨rfl, fun bs h op hop => ?_⟩
  simp only [Opcodes.distinct, Bool.and_eq_true, bne_iff_ne, ne_eq] at hd
  cases h; cases hop; simp [wireLength, lengthBytes, Ne.symm hd.1.1]

theorem delay : Statement (.delay x) := by
  intro o hd _
  refine ⟨rfl, fun bs h op hop => ?_⟩
  simp only [Opcodes.distinct, Bool.and_eq_true, bne_iff_ne, ne_eq] at hd
  cases h; cases hop; simp [wireLength, lengthBytes, Ne.symm hd.1.2, Ne.symm hd.2]

theorem unknownOpcode : Statement (.unknownOpcode op) := by
  intro o _ hw
  refine ⟨rfl, fun bs h op' hop => ?_⟩
  simp only [Instr.wellFormed, Opcodes.recognized, Bool.not_eq_true', Bool.or_eq_false_iff, beq_eq_false_iff_ne] at hw
  cases h; cases hop; simp [wireLength, lengthBytes, hw.1.1, hw.1.2, hw.2]

end Sys2Proof.Laws.EncodedLength
end

