-- ==== Sys2Proof/Tests/Slice0.lean ====
section
/-! SUPPORT. The model's own tests. The expected values are the vectors of spec/95_test_vectors.md, computed there by
hand from the rules. The witnesses show that the statements' hypotheses can be met. -/

namespace Sys2Proof.Tests

open Sys2Proof.Machine Sys2Proof.Claims

/-! ### Small states -/

/-- What `f` sees of the next state. -/
def seen {α : Type} (o : Host.Outcome State Fault Refusal) (f : State → α) : Option α :=
  match o with
  | .next t => some (f t)
  | .fault _ => none
  | .refused _ => none

/-- The state after performing a host word, if there is one. -/
def after (w : Word) (s : State) : State :=
  match exec (decodeHost w) s with
  | .next t => t
  | .fault _ => s
  | .refused _ => s

/-- `s` with `bs` as the whole queue. -/
def queued (bs : List Byte) (s : State) : State :=
  { s with qmem := queueStore s 0 bs s.qmem, qlen := BitVec.ofNat 16 bs.length }

/-- `s` with the inputs of the current transaction. -/
def given (now : Word) (running : Bool) (adc : List Sample) (s : State) : State :=
  { s with inp := { now := now, running := running, adc := adc } }

/-- Zone `k`'s registers changed by `f`. -/
def onZone (k : Nat) (f : Zone → Zone) (s : State) : State := { s with zones := s.zones.modify k f }

/-- The table EXT of 95_test_vectors.md section 0. -/
def extTable : Calibration :=
  [(0, [⟨0, 300⟩, ⟨256, 200⟩, ⟨512, 120⟩, ⟨768, 60⟩, ⟨1024, 0⟩])]

/-- The table RISE of 95_test_vectors.md section 0. -/
def riseTable : Calibration :=
  [(0, [⟨0, 0⟩, ⟨256, 60⟩, ⟨512, 120⟩, ⟨768, 200⟩, ⟨1024, 300⟩])]

/-- The table DEGEN of V-S-11. -/
def degenTable : Calibration :=
  [(0, [⟨0, 0⟩, ⟨256, 50⟩, ⟨256, 90⟩, ⟨768, 200⟩, ⟨1024, 300⟩])]

/-- The table UNEVEN of V-S-12. -/
def unevenTable : Calibration :=
  [(0, [⟨100, 10⟩, ⟨200, 20⟩, ⟨300, 30⟩, ⟨400, 40⟩, ⟨1000, 100⟩])]

/-- EXC and EXT after block reset: zone 0 a thermocouple under PID, zone 1 a thermistor under bang-bang. -/
def s0 : State := State.resetWith Config.reference extTable

/-- The same with a history of one sample, as V-H-34 to V-H-39 have it, and the given TEMP_INTERVAL. -/
def s1 (interval : Nat) : State :=
  State.resetWith { Config.reference with nHist := 1, tempInterval := interval } extTable

/-- A zone-0 register file of V-H-1 to V-H-20: TARGET, MAXT, CUR, ACC, PREV. -/
def zoneWith (target maxt cur acc prev : Int) : Zone :=
  { Zone.reset Config.reference with
    target := BitVec.ofInt 16 target, maxt := BitVec.ofInt 16 maxt, cur := BitVec.ofInt 16 cur,
    acc := BitVec.ofInt 32 acc, prev := BitVec.ofInt 16 prev }

/-- The parameters of EXC. -/
def pidParams : ZoneParams := Config.referenceZone .thermocouple .pid

/-- The parameters of a bang-bang zone. -/
def bangParams : ZoneParams := Config.referenceZone .thermistor .bangBang

/-- The bytes of V-W-1, V-W-3 and V-W-4. -/
def moveBytes : List Byte := [0x81, 0x64, 0, 0, 0, 0, 0, 0, 0, 0, 0, 0, 0, 0xF4, 0x01, 0, 0]
/-- See `moveBytes`. -/
def positionBytes : List Byte := [0x82, 0xFF, 0xFF, 0xFF, 0xFF, 2, 0, 0, 0, 3, 0, 0, 0]
/-- See `moveBytes`. -/
def delayBytes : List Byte := [0x85, 0xE8, 0x03, 0, 0]

/-! ### Well-formedness and configurations -/

theorem test_known_opcode_is_no_unknown_opcode :
    (Instr.unknownOpcode 0x81).wellFormed Opcodes.default = false ∧
    (Instr.unknownOpcode 0x82).wellFormed Opcodes.default = false ∧
    (Instr.unknownOpcode 0x85).wellFormed Opcodes.default = false ∧
    (Instr.unknownOpcode 0x84).wellFormed Opcodes.default = true := by decide

theorem test_equal_opcodes_are_not_distinct :
    ({ qpa := 1, setPos := 1, delay := 2 } : Opcodes).distinct = false ∧
    ({ qpa := 1, setPos := 2, delay := 1 } : Opcodes).distinct = false ∧
    ({ qpa := 2, setPos := 1, delay := 1 } : Opcodes).distinct = false := by decide

/-- One configuration for each constraint of 00_scope.md R11 (at its boundary) that breaks just that constraint. -/
def illegal : List Config :=
  let c := Config.reference
  let z := fun (f : ZoneParams → ZoneParams) => { c with zones := c.zones.map f }
  [{ c with opc := { qpa := 0x81, setPos := 0x81, delay := 0x85 } },
   { c with opc := { qpa := 0x85, setPos := 0x82, delay := 0x85 } },
   { c with opc := { qpa := 0x81, setPos := 0x82, delay := 0x82 } },
   { c with qCap := 16 }, { c with sfLo := 1023 }, { c with tcDen := 0 }, { c with tblN := 1 },
   { c with tblSpacing := 0 }, z fun p => { p with iMin := 1 }, z fun p => { p with iMax := -1 },
   z fun p => { p with bbSustain := 256 }]

theorem test_reference_is_legal : legalConfig Config.reference = true := by decide

theorem test_broken_constraints_are_illegal : ∀ c ∈ illegal, legalConfig c = false := by decide

theorem test_illegal_configuration_runs_nothing :
    step { s0 with cfg := { Config.reference with qCap := 16 } } = .refused .illegalConfiguration := rfl

/-! ### Decoding: words written out from 95_test_vectors.md sections 2.1 and 2.2 -/

theorem test_decode_nop : decodeHost 0x00000000#32 = .nop := by decide
theorem test_decode_push_byte : decodeHost 0x10000081#32 = .pushByte 0x81 := by decide
theorem test_decode_run_slice : decodeHost 0x20000000#32 = .runSlice := by decide
theorem test_decode_reset_commands : decodeHost 0x30000000#32 = .resetCommands := by decide
theorem test_decode_pause :
    decodeHost 0x40000001#32 = .pause true ∧ decodeHost 0x40000000#32 = .pause false := by decide
theorem test_decode_query_paused : decodeHost 0x50000000#32 = .queryPaused := by decide
theorem test_decode_manage_temperature : decodeHost 0x61000000#32 = .manageTemperature 1 := by decide
theorem test_decode_set_target :
    decodeHost 0x700000C8#32 = .setTarget 0 200 ∧ decodeHost 0x7100FF9C#32 = .setTarget 1 (BitVec.ofInt 16 (-100)) ∧
    decodeHost 0x70AB00C8#32 = .setTarget 0 200 := by decide
theorem test_decode_has_reached : decodeHost 0x80000000#32 = .hasReached 0 := by decide
theorem test_decode_set_enable : decodeHost 0x91000000#32 = .setEnable 1 false := by decide
theorem test_decode_read_dstat : decodeHost 0xA0000000#32 = .readDstat := by decide
theorem test_decode_read_zstat : decodeHost 0xB1000000#32 = .readZstat 1 := by decide
theorem test_decode_reserved :
    decodeHost 0xC0000000#32 = .reservedC ∧ decodeHost 0xD0000000#32 = .reservedD ∧
    decodeHost 0xE0000000#32 = .reservedE ∧ decodeHost 0xFFFFFFFF#32 = .reservedF := by decide

theorem test_decode_queue_point_abs :
    decodeWire Opcodes.default [0x81, 1, 0, 0, 0, 2, 0, 0, 0, 3, 0, 0, 0, 0xFB, 0xFF, 0xFF, 0xFF] =
      .instr (.queuePointAbs 1 2 3 (BitVec.ofInt 32 (-5))) [] := by decide
theorem test_decode_set_position :
    decodeWire Opcodes.default positionBytes = .instr (.setPosition (BitVec.ofInt 32 (-1)) 2 3) [] := by decide
theorem test_decode_delay :
    decodeWire Opcodes.default delayBytes = .instr (.delay 1000) [] ∧
    decodeWire Opcodes.default [0x85, 0xFF, 0xFF, 0xFF, 0xFF] = .instr (.delay 4294967295) [] := by decide
theorem test_decode_unknown_opcode :
    decodeWire Opcodes.default [0x84] = .instr (.unknownOpcode 0x84) [] ∧
    decodeWire Opcodes.default (0x00 :: delayBytes) = .instr (.unknownOpcode 0x00) delayBytes := by decide
theorem test_decode_rejects_by_name :
    decodeWire Opcodes.default [0x85, 0xE8, 0x03] = .rejected .incomplete ∧
    decodeWire Opcodes.default [] = .rejected .emptyQueue := by decide
theorem test_send_delay :
    send Opcodes.default (.delay 1000) =
      [0x10000085#32, 0x100000E8#32, 0x10000003#32, 0x10000000#32, 0x10000000#32] := by decide

/-! ### Sampler vectors (section 2.3) -/

theorem test_sample_raw_truncates :
    sampleRaw { Config.reference with kReads := 4 } [100, 101, 101, 103] = 101 ∧
    sampleRaw { Config.reference with kReads := 2 } [1, 2] = 1 ∧
    sampleRaw { Config.reference with kReads := 2 } [1023, 1023] = 1023 := by decide
theorem test_ring_push_wraps :
    (ringPush Config.reference 500 { Zone.reset Config.reference with hidx := 3 }).hidx = 0 ∧
    (ringPush Config.reference 500 { Zone.reset Config.reference with hidx := 3 }).hist = [0, 0, 0, 500] := by decide
theorem test_ring_average_truncates :
    ringAverage Config.reference { Zone.reset Config.reference with hist := [500, 0, 0, 0] } = 125 ∧
    ringAverage Config.reference { Zone.reset Config.reference with hist := [0, 0, 0, 3] } = 0 := by decide
theorem test_thermistor_map :
    [0, 1, 100, 255, 256, 257, 300, 511, 512, 600, 700, 767, 768, 900, 1000, 1023].map
        (thermistorT Config.reference extTable 0) =
      [300, 300, 261, 201, 200, 200, 187, 121, 120, 100, 76, 61, 60, 30, 6, 1] := by decide
theorem test_thermistor_map_of_odd_tables :
    [300, 511, 512, 600].map (thermistorT Config.reference degenTable 0) = [50, 50, 145, 163] ∧
    [0, 50, 100, 150, 356, 500, 999, 1000, 1023].map (thermistorT Config.reference unevenTable 0) =
      [10, 10, 10, 15, 35, 50, 99, 100, 100] := by decide
theorem test_thermocouple_map :
    [0, 1, 2, 3, 100, 511, 512, 1000, 1023].map (thermocoupleT Config.reference) =
      [0, 0, 0, 1, 48, 249, 250, 488, 499] ∧
    [327, 328, 1023].map (thermocoupleT { Config.reference with tcNum := 100, tcDen := 1 }) =
      [32700, 32767, 32767] := by decide
theorem test_sensor_check :
    [0, 1, 1022, 1023].map (implausible Config.reference) = [true, false, false, true] ∧
    [10, 11, 999, 1000].map (implausible { Config.reference with sfLo := 10, sfHi := 1000 }) =
      [true, false, false, true] ∧
    implausible { Config.reference with sfEn := false } 0 = false := by decide

/-! ### Heater vectors (section 2.4) -/

/-- ACC and DUTY after the control step. -/
def controlled (p : ZoneParams) (u : Zone) : Int × Nat :=
  let u' := controlStep Config.reference p u
  (u'.acc.toInt, u'.duty.toNat)

theorem test_pid_law :
    [zoneWith 200 0 25 0 0, zoneWith 200 0 30 175 25, zoneWith 200 0 40 345 30, zoneWith 200 0 199 400 198,
      zoneWith 200 0 210 400 205, zoneWith 200 0 250 0 240].map (controlled pidParams) =
    [(175, 255), (345, 255), (400, 255), (400, 101), (390, 72), (-50, 0)] := by decide
theorem test_pid_law_corners :
    [zoneWith 200 0 200 0 200, zoneWith 0 0 20 0 25, zoneWith 100 0 (-300) 0 0, zoneWith (-32768) 0 32767 0 (-32768),
      zoneWith 200 0 195 (-400) 195, zoneWith 0 0 0 (-10) 10].map (controlled pidParams) =
    [(0, 0), (-20, 0), (400, 255), (-400, 0), (-395, 0), (-10, 8)] := by decide
theorem test_bang_bang_law :
    [zoneWith 200 220 199 0 0, zoneWith 200 220 200 0 0, zoneWith 200 220 219 0 0, zoneWith 200 220 220 0 0,
      zoneWith 5 5 4 0 0, zoneWith 5 5 5 0 0, zoneWith (-100) (-110) (-120) 0 0,
      zoneWith (-100) (-110) (-100) 0 0].map (fun u => (controlled bangParams u).2) =
    [255, 64, 64, 0, 255, 0, 255, 0] := by decide
theorem test_set_target_responses :
    [0x700000C8#32, 0x70000000#32, 0x7100FF9C#32, 0x7000FFFB#32, 0x7000745D#32, 0x70007FFF#32, 0x70008000#32].map
        (fun w => seen (exec (decodeHost w) s0) State.response) =
      [some 0x00DC00C8#32, some 0#32, some 0xFF92FF9C#32, some 0xFFFBFFFB#32, some 0x7FFF745D#32,
        some 0x7FFF7FFF#32, some 0x80008000#32] := by decide
theorem test_set_target_of_absent_zone :
    after 0x720000C8#32 s0 = { s0 with response := 0 } := by decide
theorem test_has_reached :
    [(0, 0), (0, 1), (200, 190), (200, 191), (-100, -95), (-100, -94)].map
        (fun tc => seen (exec (.hasReached 0) (onZone 0 (fun _ => zoneWith tc.1 0 tc.2 0 0) s0)) State.response) =
      [some 0, some 1, some 0, some 1, some 0, some 1] := by decide
theorem test_debounced_call :
    seen (exec (.manageTemperature 0) (given 50000 false [] (s1 100000))) (fun t => (t.response, t.trace)) =
      some (0x01000000#32, []) ∧
    seen (exec (.manageTemperature 0)
        (given 0xFF false [512] (onZone 0 (fun u => { u with lastTick := 0xFFFFFF00 }) (s1 512)))) State.response =
      some 0x01000000#32 := by decide
theorem test_firing_tick_across_rollover :
    seen (exec (.manageTemperature 0)
        (given 0x100 false [512] (onZone 0 (fun u => { u with lastTick := 0xFFFFFF00 }) (s1 512))))
        (fun t => (t.response, t.trace)) =
      some (0x850000FA#32, [.writeDuty 0 0]) := by decide
theorem test_set_enable_then_tick :
    let a := after 0x90000000#32 (after 0x700000C8#32 (s1 0))
    let b := after 0x60000000#32 (given 5 false [100] a)
    let c := after 0x60000000#32 (given 6 false [100] (after 0x90000001#32 b))
    (a.response, a.trace) = (0#32, [.writeDuty 0 0]) ∧
    (b.response, b.zones.map (fun u => u.acc.toInt)) = (0x80000030#32, [152, 0]) ∧
    (c.response, c.zones.map (fun u => u.acc.toInt)) = (0x81FF0030#32, [304, 0]) := by decide
theorem test_set_enable_only_writes_en :
    seen (exec (.setEnable 1 true) s0) (fun t => (t.response, t.trace, t.zones)) = some (0#32, [], s0.zones) := by
  decide
theorem test_read_zstat : seen (exec (.readZstat 0) s0) State.response = some 0x01000000#32 := by decide
theorem test_sensor_fault_tick :
    seen (exec (.manageTemperature 1) (given 100000 false [1023] s0))
        (fun t => (t.response, t.zones.map (fun u => (u.hist, u.hidx)))) =
      some (0x870000C9#32, [([0, 0, 0, 0], 0), ([1023, 0, 0, 0], 1)]) := by decide

/-! ### Dispatcher and wire vectors (sections 2.5, 2.6 and 3) -/

theorem test_nop : seen (exec .nop s0) id = some s0 := by decide
theorem test_push_byte :
    (after 0x10000081#32 s0).response = 0x00010001#32 ∧ queueWindow (after 0x10000081#32 s0) = [0x81] := by decide
theorem test_push_byte_when_full :
    let full := queued (0x81 :: List.replicate 16 0) { s0 with cfg := { Config.reference with qCap := 17 } }
    let t := after 0x10000055#32 full
    (t.response, dstat t, t.qmem == full.qmem) = (0x00110000#32, 0x00110040#32, true) ∧
    (after 0x20000000#32 (given 0 true [] t)).response = 0x00000051#32 := by decide
theorem test_run_slice_on_empty_queue : (after 0x20000000#32 s0).response = 0#32 := by decide
theorem test_one_command_a_slice :
    let a := after 0x20000000#32 (queued (positionBytes ++ positionBytes) s0)
    let b := after 0x20000000#32 a
    [a.response, b.response, (after 0x20000000#32 b).response] = [0x000D0010#32, 0x00000010#32, 0#32] := by decide
theorem test_moving_then_next_command :
    let a := after 0x20000000#32 (queued (moveBytes ++ moveBytes) (given 0 true [] s0))
    let b := after 0x20000000#32 a
    let c := after 0x20000000#32 (given 0 false [] b)
    [a.response, b.response, c.response, (after 0x20000000#32 c).response] =
      [0x00110011#32, 0x00110001#32, 0x00000011#32, 0#32] := by decide
theorem test_moving_under_protocol_fault :
    (after 0x20000000#32 (queued delayBytes { s0 with mode := .moving, pfault := true })).response =
      0x00050008#32 := by decide
theorem test_reset_commands :
    let t := after 0x30000000#32 (queued (delayBytes ++ [1, 2, 3, 4]) { s0 with mode := .delay, paused := true })
    (t.response, dstat t) = (0#32, 4#32) := by decide
theorem test_pause_and_query :
    let t := after 0x40000001#32 s0
    (t.response, t.paused, (after 0x50000000#32 t).response) = (0#32, true, 1#32) := by decide
theorem test_paused_slice_is_a_no_op :
    let s := queued delayBytes { s0 with paused := true }
    after 0x20000000#32 s = { s with response := 0x00050004#32 } := by decide
theorem test_read_dstat :
    (after 0xA0000000#32 (queued [1, 2, 3, 4] { s0 with mode := .moving })).response = 0x00040001#32 := by decide
theorem test_wait_on_tool :
    (after 0x20000000#32 { s0 with mode := .waitOnTool }).response = 3#32 := by decide
theorem test_reserved_words :
    [0xC0000000#32, 0xD1234567#32, 0xE0000001#32, 0xFFFFFFFF#32].map (fun w => after w { s0 with response := 7 }) =
      [s0, s0, s0, s0] := by decide
theorem test_queue_point_abs :
    seen (exec .runSlice (queued moveBytes (given 30 true [] s0))) (fun t => (t.response, t.trace)) =
      some (0x00000011#32, [.setTarget 100 0 0 500]) := by decide
theorem test_queue_point_abs_incomplete :
    (after 0x20000000#32 (queued (moveBytes.take 16) s0)).response = 0x00100020#32 ∧
    (after 0x20000000#32 (queued (positionBytes.take 12) s0)).response = 0x000C0020#32 := by decide
theorem test_set_position :
    seen (exec .runSlice (queued positionBytes s0)) (fun t => (t.response, t.trace)) =
      some (0x00000010#32, [.definePosition (-1) 2 3]) := by decide
theorem test_delay_runs_out :
    let a := after 0x20000000#32 (queued delayBytes (given 5000 false [] s0))
    let b := after 0x20000000#32 (given 5999 false [] a)
    let c := after 0x20000000#32 (given 6000 false [] b)
    (a.response, a.dlyStart, a.dlyDur, b.response, c.response) = (0x12#32, 5000, 1000, 2#32, 0#32) := by decide
theorem test_delay_across_rollover :
    let a := after 0x20000000#32 (queued delayBytes (given 0xFFFFFF00 false [] s0))
    let b := after 0x20000000#32 (given 0x2E7 false [] a)
    [b.response, (after 0x20000000#32 (given 0x2E8 false [] b)).response] = [2#32, 0#32] := by decide
theorem test_unknown_opcode_then_held :
    let a := after 0x20000000#32 (queued (0 :: delayBytes) s0)
    [a.response, (after 0x20000000#32 a).response] = [0x00050038#32, 0x00050008#32] := by decide

/-! ### The step -/

/-- `s0` with the outside's next actions. -/
def pendingOf (as : List HostAction) : State := { s0 with pending := as }

theorem test_step_takes_a_transaction :
    seen (step (pendingOf [.transaction 0x700000C8 { now := 1, running := true, adc := [] }, .blockReset]))
        (fun t => (t.response, t.inp.now, t.pending)) =
      some (0x00DC00C8#32, 1, [.blockReset]) := by decide

theorem test_reset_status_words : dstat State.reset = 0#32 ∧ State.reset.zones.map zstat = [0x01000000#32, 0x01000000#32] := by
  decide

/-! ### Witnesses: states and operands that meet the statements' hypotheses, at the boundaries of their clauses -/

/-- Whether `i` completes at `s` with a next state in which `f` differs. -/
def changes {α : Type} [DecidableEq α] (i : Instr) (s : State) (f : State → α) : Bool :=
  match exec i s with
  | .next t => f t != f s
  | .fault _ => false
  | .refused _ => false

/-- `s0` with the first `n` bytes of `bs` queued. -/
def withBytes (n : Nat) (bs : List Byte) : State := queued (bs.take n) s0

/-- A zone-0 tick state: TEMP_INTERVAL 512, LAST_TICK 0xFFFFFF00, and `now`. -/
def tickAt (now : Word) : State :=
  given now false [512] (onZone 0 (fun u => { u with lastTick := 0xFFFFFF00 }) (s1 512))

theorem witness_DecodeOfEncodeIsTheInstruction :
    Opcodes.default.distinct = true ∧ (Instr.unknownOpcode 0x84).wellFormed Opcodes.default = true ∧
    (Instr.delay 1000).wellFormed Opcodes.default = true ∧ encode Opcodes.default (.delay 1000) = .wire delayBytes := by
  decide

theorem witness_WireDecodingReadsOneWholeCommand :
    ((0x81 : Byte) :: List.replicate 15 0).length < wireLength Opcodes.default 0x81 ∧
    wireLength Opcodes.default 0x81 ≤ ((0x81 : Byte) :: List.replicate 16 0).length ∧
    wireLength Opcodes.default 0x84 ≤ ([0x84] : List Byte).length := by decide

theorem witness_WireFieldsAreLittleEndian : Opcodes.default.distinct = true := by decide

theorem witness_StepRunsTheDecodedInstruction :
    let inp : Inputs := { now := 1, running := true, adc := [] }
    let s := pendingOf [.transaction 0x700000C8#32 inp, .blockReset]
    legalConfig s.cfg = true ∧ s.pending = .transaction 0x700000C8#32 inp :: [.blockReset] := by decide

theorem witness_StepRefusesIllegalConfigurations :
    Config.reference.sfHi ≤ ({ Config.reference with sfLo := 1023 } : Config).sfLo ∧
    illegal.map (fun c =>
      [decide (c.opc.qpa = c.opc.setPos), decide (c.opc.qpa = c.opc.delay), decide (c.opc.setPos = c.opc.delay),
       decide (c.qCap < 17), decide (c.sfHi ≤ c.sfLo), decide (c.tcDen < 1), decide (c.tblN < 2),
       decide (c.tblSpacing < 1), c.zones.any fun p => decide (0 < p.iMin),
       c.zones.any fun p => decide (p.iMax < 0), c.zones.any fun p => decide (c.maxDuty < p.bbSustain)].idxOf true) =
      [0, 1, 2, 3, 4, 5, 6, 7, 8, 9, 10] := by decide

theorem witness_IdleBlockHoldsItsState : legalConfig s0.cfg = true ∧ s0.pending = [] := by decide

theorem witness_BlockResetRestoresEveryRegister :
    let s := { withBytes 5 delayBytes with mode := .delay, paused := true, qovf := true,
                                           trace := [.writeDuty 0 9], pending := [.blockReset] }
    legalConfig s.cfg = true ∧ s.pending = .blockReset :: [] := by decide

theorem witness_InvariantHoldsAtReset : legalConfig (s1 512).cfg = true := by decide

/-- One zone with a target, its duty and one queued byte. -/
def invariantState : State :=
  { State.resetWith { Config.reference with zones := [pidParams] } [] with
    zones := [{ Zone.reset Config.reference with
                target := 200, maxt := 220, cur := 24, acc := 176, prev := 24, duty := 255 }],
    qmem := [(9, 0x81)], qhead := 9, qlen := 1, trace := [.writeDuty 0 255],
    pending := [.transaction 0x20000000#32 { now := 5, running := false, adc := [] }] }

theorem witness_EveryStepKeepsTheInvariant : invariantState.Inv ∧ ∃ t, step invariantState = .next t := by
  refine ⟨⟨by decide, ⟨by decide, by decide, by decide, ?_, ?_⟩, ?_, ?_⟩, _, rfl⟩
  · intro a b h
    simp only [invariantState, Memory.read] at h
    split at h
    · subst_vars; decide
    · cases h
  · intro k hk
    have : k = 0 := by
      have h1 : invariantState.qlen.toNat = 1 := by decide
      omega
    subst this; decide
  · exact .cons ⟨by decide, by decide, by decide, by decide, by decide, by decide, by decide, by decide⟩ .nil
  · intro z d h
    have hz : z = 0 := by
      by_contra hne
      have h0 : z.toNat ≠ 0 := fun e => hne (BitVec.eq_of_toNat_eq e)
      have : dutyOut invariantState z = none := by
        simp only [dutyOut, invariantState]
        rw [List.getElem?_eq_none (by simp; omega)]; rfl
      rw [this] at h; cases h
    subst hz
    have : dutyOut invariantState 0 = some 255 := by decide
    rw [this] at h; cases h; decide

theorem witness_ConfigurationAndTableNeverChange :
    (∃ t, step (pendingOf [.blockReset]) = .next t) ∧ ∃ t, exec .runSlice (withBytes 17 moveBytes) = .next t :=
  ⟨⟨_, rfl⟩, _, rfl⟩

theorem witness_RegistersHaveOnlyTheirWriters :
    changes (.pause true) s0 State.paused = true ∧
    changes (.pushByte 7) s0 State.qmem = true ∧ changes (.pushByte 7) s0 State.qlen = true ∧
    changes .resetCommands { s0 with qovf := true } State.qovf = true ∧
    changes .runSlice (withBytes 17 moveBytes) (fun s => (s.qhead, s.dresult)) = true ∧
    changes .runSlice (withBytes 17 moveBytes) State.mode = true ∧
    changes (.queuePointAbs 1 2 3 4) (withBytes 17 moveBytes) State.mode = true ∧
    changes .runSlice (withBytes 5 delayBytes) State.dlyDur = true ∧
    changes (.delay 5) (withBytes 5 delayBytes) State.dlyDur = true ∧
    changes .runSlice (withBytes 1 [0]) State.pfault = true ∧
    changes (.unknownOpcode 0) (withBytes 1 [0]) State.pfault = true ∧
    changes (.setTarget 1 5) s0 (fun s => s.zones.map fun u => (u.target, u.maxt)) = true ∧
    changes (.manageTemperature 0) (tickAt 0x100) (fun s => s.zones.map fun u => (u.cur, u.lastTick)) = true ∧
    changes (.setEnable 1 false) (onZone 1 (fun u => { u with duty := 9 }) s0)
      (fun s => s.zones.map fun u => (u.duty, u.en)) = true := by decide

theorem witness_FaultBitsAreSticky :
    (∃ t, exec (.manageTemperature 0) (onZone 0 (fun u => { u with sfault := true }) (tickAt 0x100)) = .next t) ∧
    changes .resetCommands { s0 with pfault := true } State.pfault = true ∧
    changes .resetCommands { s0 with qovf := true } State.qovf = true :=
  ⟨⟨_, rfl⟩, by decide, by decide⟩

theorem witness_EachFaultHasItsOneSource :
    changes .runSlice (withBytes 1 [0x84]) State.pfault = true ∧
    changes (.unknownOpcode 0x84) (withBytes 1 [0x84]) State.pfault = true ∧
    changes (.pushByte 1) { s0 with qlen := 256 } State.qovf = true ∧
    changes (.manageTemperature 1) (given 100000 false [1023] s0) (fun s => s.zones.map Zone.sfault) = true := by
  decide

theorem witness_TraceGrowsByAtMostOneEvent :
    changes .runSlice (withBytes 17 moveBytes) State.trace = true ∧ changes .nop s0 State.trace = false := by decide

theorem witness_ZonesShareNothing :
    zoneOf (.setTarget 1 5) = some 1 ∧ zoneOf .runSlice = none ∧
    (∃ t, exec (.setTarget 1 5) s0 = .next t) ∧ ∃ t, exec .runSlice s0 = .next t :=
  ⟨rfl, rfl, ⟨_, rfl⟩, _, rfl⟩

theorem witness_ZoneOperationSeesOnlyItsZone :
    let a := tickAt 0x100
    let b := { onZone 1 (fun u => { u with target := 99 }) a with paused := true, mode := .moving }
    zoneOf (.manageTemperature 0) = some 0 ∧ a.cfg = b.cfg ∧ a.tmem = b.tmem ∧ a.inp = b.inp ∧ a.draws = b.draws ∧
    a.zones[(0 : ZoneNum).toNat]? = b.zones[(0 : ZoneNum).toNat]? ∧ a ≠ b := by decide

theorem witness_DispatcherIgnoresZones : zoneOf .runSlice = none ∧ zoneOf (.delay 5) = none := by decide

theorem witness_PushByteAppends :
    legalConfig s0.cfg = true ∧ s0.qlen.toNat < s0.cfg.qCap ∧ ({ s0 with qlen := 255 } : State).qlen.toNat < s0.cfg.qCap := by
  decide

theorem witness_PushByteWhenFullDropsTheByte :
    ({ s0 with qlen := 256 } : State).cfg.qCap ≤ ({ s0 with qlen := 256 } : State).qlen.toNat := by decide

theorem witness_SlicePopsOneWholeCommandOrNothing :
    legalConfig (withBytes 17 moveBytes).cfg = true ∧
    (queueWindow (after 0x20000000#32 (withBytes 17 moveBytes))).length = 0 ∧
    (queueWindow (after 0x20000000#32 (withBytes 16 moveBytes))).length = 16 ∧
    (queueWindow (after 0x20000000#32 (withBytes 1 [0x84]))).length = 0 ∧
    (queueWindow (after 0x20000000#32 { withBytes 1 [0x84] with pfault := true })).length = 1 := by decide

theorem witness_PausedSliceIsANoOp : ({ withBytes 5 delayBytes with paused := true } : State).paused = true := by
  decide

theorem witness_MovingEndsExactlyWhenMotionStops :
    let s := fun r => given 40 r [] { s0 with mode := .moving }
    (s true).paused = false ∧ (s true).mode = .moving ∧ (s true).inp.running = true ∧
    (s false).paused = false ∧ (s false).mode = .moving ∧ (s false).inp.running = false := by decide

theorem witness_DelayEndsExactlyWhenElapsed :
    let s := fun n => given n false [] { s0 with mode := .delay, dlyStart := 0xFFFFFF00, dlyDur := 1000 }
    (s 0x2E7).paused = false ∧ (s 0x2E7).mode = .delay ∧
    (((s 0x2E7).inp.now.toNat : Int) - (s 0x2E7).dlyStart.toNat) % 4294967296 < (s 0x2E7).dlyDur.toNat ∧
    (s 0x2E8).paused = false ∧ (s 0x2E8).mode = .delay ∧
    ((s 0x2E8).dlyDur.toNat : Int) ≤ (((s 0x2E8).inp.now.toNat : Int) - (s 0x2E8).dlyStart.toNat) % 4294967296 := by
  decide

theorem witness_WaitOnToolIsNeitherEnteredNorLeft :
    let s := { s0 with mode := .waitOnTool }
    s.paused = false ∧ s.mode = .waitOnTool ∧
    (∃ t, exec (decodeHost 0x20000000#32) s = .next t ∧ t.mode = .waitOnTool) ∧
    ∃ t, exec (decodeHost 0x30000000#32) s = .next t ∧ t.mode = .ready :=
  ⟨rfl, rfl, ⟨_, rfl, by decide⟩, _, rfl, by decide⟩

theorem witness_NoDecodingUnderAFaultOrOnAnEmptyQueue :
    let s := { withBytes 5 delayBytes with pfault := true }
    s.paused = false ∧ s.mode = .ready ∧ s.pfault = true ∧ s0.paused = false ∧ s0.mode = .ready ∧ s0.qlen = 0 := by
  decide

theorem witness_SliceRunsTheDecodedCommand :
    let s := queued (positionBytes ++ [9]) s0
    legalConfig s.cfg = true ∧ s.paused = false ∧ s.mode = .ready ∧ s.pfault = false ∧
    decodeWire s.cfg.opc (queueWindow s) = .instr (.setPosition (BitVec.ofInt 32 (-1)) 2 3) [9] := by decide

theorem witness_IncompleteCommandWaits :
    let s := withBytes 16 moveBytes
    s.paused = false ∧ s.mode = .ready ∧ s.pfault = false ∧
    queueWindow s = 0x81 :: (moveBytes.take 16).tail ∧ s.qlen.toNat < wireLength s.cfg.opc 0x81 := by decide

theorem witness_SendThenSliceRunsTheCommand :
    legalConfig s0.cfg = true ∧ isWire (.delay 1000) = true ∧ (Instr.delay 1000).wellFormed s0.cfg.opc = true ∧
    s0.qlen = 0 ∧ s0.mode = .ready ∧ s0.paused = false ∧ s0.pfault = false := by decide

theorem witness_QueuePointAbsHandsTheMoveOn :
    legalConfig s0.cfg = true ∧ 17 ≤ (withBytes 17 moveBytes).qlen.toNat ∧ (withBytes 16 moveBytes).qlen.toNat < 17 := by
  decide

theorem witness_SetPositionHandsThePositionOn :
    legalConfig s0.cfg = true ∧ 13 ≤ (withBytes 13 positionBytes).qlen.toNat ∧
    (withBytes 12 positionBytes).qlen.toNat < 13 := by decide

theorem witness_DelayStartsTheTimeout :
    legalConfig s0.cfg = true ∧ 5 ≤ (withBytes 5 delayBytes).qlen.toNat ∧ (withBytes 4 delayBytes).qlen.toNat < 5 := by
  decide

theorem witness_UnknownOpcodeIsDiscardedAndReported :
    legalConfig s0.cfg = true ∧ 1 ≤ (withBytes 1 [0x84]).qlen.toNat := by decide

theorem witness_NopAndReservedWordsOnlyRespond :
    0xC0000000 ≤ (0xC0000000#32).toNat ∧ 0xC0000000 ≤ (0xFFFFFFFF#32).toNat := by decide

theorem witness_ReservedAndAbsentZoneWordsOnlyRespond :
    0xC ≤ (hopField 0xC0000000#32).toNat ∧ 0xC ≤ (hopField 0xFFFFFFFF#32).toNat ∧
    zoneOf (decodeHost 0x720000C8#32) = some 2 ∧ s0.cfg.nZones ≤ (2 : ZoneNum).toNat := by decide

theorem witness_SetTargetWritesTargetAndMaxt :
    zoneUnit s0 1 = some (bangParams, Zone.reset Config.reference) := by decide

theorem witness_SetEnableDrivesZeroWhenDisabling :
    zoneUnit s0 0 = some (pidParams, Zone.reset Config.reference) := by decide

theorem witness_HasReachedIsAboveNinetyFivePercent :
    let s := fun c => onZone 0 (fun _ => zoneWith 200 220 c 0 0) s0
    zoneUnit (s 191) 0 = some (pidParams, zoneWith 200 220 191 0 0) ∧
    19 * (zoneWith 200 220 191 0 0).target.toInt < 20 * (zoneWith 200 220 191 0 0).cur.toInt ∧
    zoneUnit (s 190) 0 = some (pidParams, zoneWith 200 220 190 0 0) ∧
    20 * (zoneWith 200 220 190 0 0).cur.toInt ≤ 19 * (zoneWith 200 220 190 0 0).target.toInt := by decide

theorem witness_ReadZstatLayout : zoneUnit s0 0 = some (pidParams, Zone.reset Config.reference) := by decide

/-- Zone 0's registers in `tickAt`. -/
def tickZone : Zone :=
  { Zone.reset { Config.reference with nHist := 1 } with lastTick := 0xFFFFFF00 }

theorem witness_DebouncedCallIsANoOp :
    zoneUnit (tickAt 0xFF) 0 = some (pidParams, tickZone) ∧
    (((tickAt 0xFF).inp.now.toNat : Int) - tickZone.lastTick.toNat) % 4294967296 < (tickAt 0xFF).cfg.tempInterval := by
  decide

theorem witness_FiringTickWritesItsZoneAndReportsTheDuty :
    zoneUnit (tickAt 0x100) 0 = some (pidParams, tickZone) ∧
    ((tickAt 0x100).cfg.tempInterval : Int) ≤
      (((tickAt 0x100).inp.now.toNat : Int) - tickZone.lastTick.toNat) % 4294967296 := by decide

theorem witness_PidTickFollowsTheLaw :
    legalConfig (tickAt 0x100).cfg = true ∧ zoneUnit (tickAt 0x100) 0 = some (pidParams, tickZone) ∧
    pidParams.controlMode = .pid ∧
    ((tickAt 0x100).cfg.tempInterval : Int) ≤
      (((tickAt 0x100).inp.now.toNat : Int) - tickZone.lastTick.toNat) % 4294967296 := by decide

theorem witness_BangBangTickFollowsTheLaw :
    let s := given 100000 false [600] s0
    let u := Zone.reset Config.reference
    legalConfig s.cfg = true ∧ zoneUnit s 1 = some (bangParams, u) ∧ bangParams.controlMode = .bangBang ∧
    (s.cfg.tempInterval : Int) ≤ ((s.inp.now.toNat : Int) - u.lastTick.toNat) % 4294967296 := by decide

theorem witness_FiringTickSamplesFirst :
    let s := given 100000 false [600] s0
    let u := Zone.reset Config.reference
    legalConfig s.cfg = true ∧ zoneUnit s 1 = some (bangParams, u) ∧ u.Inv s.cfg bangParams ∧
    s.inp.adc.length = s.cfg.kReads ∧
    (s.cfg.tempInterval : Int) ≤ ((s.inp.now.toNat : Int) - u.lastTick.toNat) % 4294967296 :=
  ⟨by decide, by decide,
    ⟨by decide, by decide, by decide, by decide, by decide, by decide, by decide, by decide⟩, by decide, by decide⟩

theorem witness_ThermistorClampsAndStaysInTheTable :
    (100 ≤ rawAt unevenTable 0 0 ∧ rawAt unevenTable 0 0 < 1000 ∧
      rawAt unevenTable 0 (Config.reference.tblN - 1) ≤ 1000) ∧
    2 ≤ Config.reference.tblN ∧
    ∀ i, i < Config.reference.tblN → tableEntry (unevenTable ++ [(1, [])]) 0 i = tableEntry unevenTable 0 i := by
  decide

/-- The degenerate bracket of DEGEN (V-S-11), and in UNEVEN at spacing 100 an index that the `min` lowers from 8 to 3. -/
theorem witness_AnyTableAnswersByItsIndexedBracket :
    let c := { Config.reference with tblSpacing := 100 }
    2 ≤ Config.reference.tblN ∧ 2 ≤ c.tblN ∧
    rawAt degenTable 0 0 < 300 ∧ 300 < rawAt degenTable 0 (Config.reference.tblN - 1) ∧
    min ((300 - rawAt degenTable 0 0) / Config.reference.tblSpacing) (Config.reference.tblN - 2) = 1 ∧
    rawAt degenTable 0 (1 + 1) ≤ rawAt degenTable 0 1 ∧
    rawAt unevenTable 0 0 < 999 ∧ 999 < rawAt unevenTable 0 (c.tblN - 1) ∧
    (999 - rawAt unevenTable 0 0) / c.tblSpacing = 8 ∧
    min ((999 - rawAt unevenTable 0 0) / c.tblSpacing) (c.tblN - 2) = 3 ∧
    rawAt unevenTable 0 3 < rawAt unevenTable 0 (3 + 1) := by decide

theorem witness_WellFormedTableInterpolatesInItsBracket :
    WellFormedTable Config.reference extTable 0 ∧ rawAt extTable 0 0 < 1 ∧
    1023 < rawAt extTable 0 (Config.reference.tblN - 1) := by
  unfold WellFormedTable; decide

theorem witness_WellFormedTableIsMonotone :
    WellFormedTable Config.reference riseTable 0 ∧ WellFormedTable Config.reference extTable 0 ∧
    (∀ i, i + 1 < Config.reference.tblN → tempAt riseTable 0 i ≤ tempAt riseTable 0 (i + 1)) ∧
    ∀ i, i + 1 < Config.reference.tblN → tempAt extTable 0 (i + 1) ≤ tempAt extTable 0 i := by
  unfold WellFormedTable
  refine ⟨by decide, by decide, fun i hi => ?_, fun i hi => ?_⟩ <;>
    · have : i < 4 := by have : Config.reference.tblN = 5 := rfl
                         omega
      interval_cases i <;> decide

theorem witness_ThermocoupleIsALinearScale : 1 ≤ Config.reference.tcDen ∧ 0 ≤ Config.reference.tcNum := by decide

theorem witness_RingHoldsTheLastSamples :
    let u := { Zone.reset Config.reference with hidx := 3 }
    1 ≤ Config.reference.nHist ∧ Config.reference.nHist ≤ 16 ∧ u.hist.length = Config.reference.nHist ∧
    u.hidx.toNat < Config.reference.nHist ∧ ([1, 2, 3, 4] : List Sample).length = Config.reference.nHist := by decide

theorem witness_PidProductsStayBelowTwoToThe63 : legalZone Config.reference pidParams = true := by decide

theorem witness_IntegralTermStaysUnderItsCeiling :
    (0 : Int) ≤ 100 ∧ 0 < pidParams.ki ∧ pidParams.iMax = (100 * 2 ^ Config.reference.gainFrac) / pidParams.ki ∧
    pidParams.iMin = -pidParams.iMax := by decide

theorem witness_ElapsedTimeSurvivesRollover :
    (0 : Nat) < 4294967296 ∧ 4294967295 < 4294967296 ∧ (0xFFFFFF00#32 + BitVec.ofNat 32 1000).toNat < 0xFFFFFF00 := by
  decide

end Sys2Proof.Tests
end

section
/-! PROOFS. The configurations that the block refuses (00_scope.md R11). -/

namespace Sys2Proof

/-- The opcode check is R11's "pairwise distinct", as inequalities. -/
theorem Opcodes.distinct_iff (o : Opcodes) :
    o.distinct = true ↔ o.qpa ≠ o.setPos ∧ o.qpa ≠ o.delay ∧ o.setPos ≠ o.delay := by
  simp only [Opcodes.distinct, Bool.and_eq_true, bne_iff_ne, and_assoc]

namespace Machine

/-- The check of the configuration comes before the fetch: without it nothing runs. -/
theorem step_of_not_legal {s : State} (h : ¬ legalConfig s.cfg = true) : step s = .refused .illegalConfiguration :=
  if_neg h

/-- What R11 asks of the zones: the reset value 0 lies within the integral clamp, and the sustain duty within the
duty ceiling. -/
theorem legalConfig_zone_bounds {c : Config} {p : ZoneParams} (h : legalConfig c = true) (hp : p ∈ c.zones) :
    p.iMin ≤ 0 ∧ 0 ≤ p.iMax ∧ p.bbSustain ≤ c.maxDuty := by
  obtain ⟨-, -, -, -, -, -, -, -, -, -, -, -, hzones⟩ := legalConfig_spec h
  obtain ⟨-, -, -, ⟨-, hiMin⟩, ⟨hiMax, -⟩, hsustain⟩ := legalZone_spec (hzones p hp)
  exact ⟨hiMin, hiMax, hsustain⟩

end Machine

namespace Claims

open Machine

/-- Settles O8: a legal configuration meets every constraint of R11, so one that breaks a constraint, whichever it is,
is not legal, and the step refuses it. -/
theorem stepRefusesIllegalConfigurations : Obligations.StepRefusesIllegalConfigurations := by
  intro s hbroken
  refine step_of_not_legal fun hlegal => ?_
  obtain ⟨-, -, -, ⟨htblN, -⟩, hspacing, htcDen, -, -, -, ⟨hsf, -⟩, ⟨hqCap, -⟩, hopc, -⟩ := legalConfig_spec hlegal
  obtain ⟨hqs, hqd, hsd⟩ := s.cfg.opc.distinct_iff.1 hopc
  rcases hbroken with h | h | h | h | h | h | h | h | ⟨p, hp, hzone⟩
  · exact hqs h
  · exact hqd h
  · exact hsd h
  · exact Nat.not_lt.2 hqCap h
  · exact Nat.not_le.2 hsf h
  · exact Nat.not_lt.2 htcDen h
  · exact Nat.not_lt.2 htblN h
  · exact Nat.not_lt.2 hspacing h
  · obtain ⟨hiMin, hiMax, hsustain⟩ := legalConfig_zone_bounds hlegal hp
    omega

end Claims

end Sys2Proof
end

section
/-! PROOFS. What a wire command and a slice do to each register (42_dispatcher.md R202, 43_wire_commands.md R241 to
R246). -/

namespace Sys2Proof

/-- Only the delay opcode's bytes decode to DELAY (43_wire_commands.md R245). -/
theorem eq_delay_of_wireCommand {o : Opcodes} {op : Byte} {bs : List Byte} {d : Word}
    (h : wireCommand o op bs = .delay d) : op = o.delay := by
  rcases wireCommand_cases o op bs with ⟨-, -, e⟩ | ⟨-, -, -, e⟩ | ⟨-, -, hop, -, -⟩ | ⟨-, -, e⟩
  · rw [e] at h; cases h
  · rw [e] at h; cases h
  · exact hop
  · rw [e] at h; cases h

/-- A recognized opcode's bytes do not decode to an unknown opcode (43_wire_commands.md R245). -/
theorem not_recognized_of_wireCommand {o : Opcodes} {op b : Byte} {bs : List Byte}
    (h : wireCommand o op bs = .unknownOpcode b) : o.recognized op = false := by
  rcases wireCommand_cases o op bs with ⟨-, -, e⟩ | ⟨-, -, -, e⟩ | ⟨-, -, -, -, e⟩ | ⟨hop, -, -⟩
  · rw [e] at h; cases h
  · rw [e] at h; cases h
  · rw [e] at h; cases h
  · exact hop

namespace Machine

section
variable (i : Instr) (s : State)

/-! ### Wire commands -/

/-- What performing an instruction as a wire command can do: nothing (a host operation, or an unknown opcode on an
empty queue), INCOMPLETE, or the popped command's own effect (43_wire_commands.md R241 to R246). -/
theorem performWire_cases :
    performWire i s = s ∨ performWire i s = reportIncomplete s ∨
    (∃ x y z r, i = .queuePointAbs x y z r ∧ 17 ≤ s.qlen.toNat ∧ performWire i s =
      { emit (.setTarget x.toInt y.toInt z.toInt r.toInt) (queuePop 17 s) with
          mode := .moving, dresult := .dispatched }) ∨
    (∃ x y z, i = .setPosition x y z ∧ 13 ≤ s.qlen.toNat ∧ performWire i s =
      { emit (.definePosition x.toInt y.toInt z.toInt) (queuePop 13 s) with dresult := .dispatched }) ∨
    (∃ d, i = .delay d ∧ 5 ≤ s.qlen.toNat ∧ performWire i s =
      { queuePop 5 s with dlyStart := s.inp.now, dlyDur := d, mode := .delay, dresult := .dispatched }) ∨
    (∃ op, i = .unknownOpcode op ∧ 1 ≤ s.qlen.toNat ∧ performWire i s =
      { setFault .protocol (queuePop 1 s) with dresult := .protoFault }) := by
  cases i with
  | queuePointAbs x y z r =>
    rcases dispatch_cases 17 (fun t => { emit (.setTarget x.toInt y.toInt z.toInt r.toInt) t with mode := .moving }) s
      with ⟨-, e⟩ | ⟨hn, e⟩
    · exact .inr (.inl e)
    · exact .inr (.inr (.inl ⟨x, y, z, r, rfl, hn, e⟩))
  | setPosition x y z =>
    rcases dispatch_cases 13 _ s with ⟨-, e⟩ | ⟨hn, e⟩
    · exact .inr (.inl e)
    · exact .inr (.inr (.inr (.inl ⟨x, y, z, rfl, hn, e⟩)))
  | delay d =>
    rcases dispatch_cases 5 (fun t => { t with dlyStart := t.inp.now, dlyDur := d, mode := .delay }) s
      with ⟨-, e⟩ | ⟨hn, e⟩
    · exact .inr (.inl e)
    · exact .inr (.inr (.inr (.inr (.inl ⟨d, rfl, hn, e⟩))))
  | unknownOpcode op =>
    rcases unknownOpcode_cases op s with ⟨-, e⟩ | ⟨hn, e⟩
    · exact .inl e
    · exact .inr (.inr (.inr (.inr (.inr ⟨op, rfl, hn, e⟩))))
  | _ => exact .inl rfl

@[simp] theorem performWire_cfg : (performWire i s).cfg = s.cfg := by
  obtain ⟨h, -⟩ := performWire_frame i s; exact h
@[simp] theorem performWire_tmem : (performWire i s).tmem = s.tmem := by
  obtain ⟨-, h, -⟩ := performWire_frame i s; exact h
@[simp] theorem performWire_paused : (performWire i s).paused = s.paused := by
  obtain ⟨-, -, h, -⟩ := performWire_frame i s; exact h
@[simp] theorem performWire_qmem : (performWire i s).qmem = s.qmem := by
  obtain ⟨-, -, -, h, -⟩ := performWire_frame i s; exact h
@[simp] theorem performWire_qovf : (performWire i s).qovf = s.qovf := by
  obtain ⟨-, -, -, -, h, -⟩ := performWire_frame i s; exact h
@[simp] theorem performWire_zones : (performWire i s).zones = s.zones := by
  obtain ⟨-, -, -, -, -, h, -⟩ := performWire_frame i s; exact h

/-- A wire command emits at most one event, and reports no duty. -/
theorem performWire_trace : (performWire i s).trace = s.trace ∨
    ∃ e, (performWire i s).trace = s.trace ++ [e] ∧ ∀ z d, e ≠ .writeDuty z d := by
  obtain ⟨-, -, -, -, -, -, -, -, -, -, -, -, h⟩ := performWire_frame i s; exact h

/-- A wire command leaves the ring registers alone, or pops bytes that are there (43_wire_commands.md R248). -/
theorem performWire_queue :
    ((performWire i s).qhead = s.qhead ∧ (performWire i s).qlen = s.qlen) ∨
    ∃ n, n ≤ s.qlen.toNat ∧ (performWire i s).qhead = (queuePop n s).qhead ∧
      (performWire i s).qlen = (queuePop n s).qlen := by
  rcases performWire_cases i s with e | e | ⟨x, y, z, r, -, hn, e⟩ | ⟨x, y, z, -, hn, e⟩ | ⟨d, -, hn, e⟩ |
    ⟨op, -, hn, e⟩ <;> rw [e]
  · exact .inl ⟨rfl, rfl⟩
  · exact .inl ⟨rfl, rfl⟩
  · exact .inr ⟨17, hn, rfl, rfl⟩
  · exact .inr ⟨13, hn, rfl, rfl⟩
  · exact .inr ⟨5, hn, rfl, rfl⟩
  · exact .inr ⟨1, hn, rfl, rfl⟩

/-- Of the wire commands only the move and DELAY write the mode (10_state.md R32). -/
theorem performWire_mode_writer (h : (performWire i s).mode ≠ s.mode) :
    (∃ x y z r, i = .queuePointAbs x y z r) ∨ ∃ d, i = .delay d := by
  rcases performWire_cases i s with e | e | ⟨x, y, z, r, hi, -, -⟩ | ⟨x, y, z, -, -, e⟩ | ⟨d, hi, -, -⟩ |
    ⟨op, -, -, e⟩
  · exact absurd (by rw [e]) h
  · exact absurd (by rw [e]; rfl) h
  · exact .inl ⟨x, y, z, r, hi⟩
  · exact absurd (by rw [e]; rfl) h
  · exact .inr ⟨d, hi⟩
  · exact absurd (by simp [e]) h

/-- Of the wire commands only DELAY writes the delay registers (10_state.md R38). -/
theorem performWire_delay_writer
    (h : (performWire i s).dlyStart ≠ s.dlyStart ∨ (performWire i s).dlyDur ≠ s.dlyDur) : ∃ d, i = .delay d := by
  rcases performWire_cases i s with e | e | ⟨x, y, z, r, -, -, e⟩ | ⟨x, y, z, -, -, e⟩ | ⟨d, hi, -, -⟩ |
    ⟨op, -, -, e⟩
  case inr.inr.inr.inr.inl => exact ⟨d, hi⟩
  all_goals simp [e] at h

/-- Of the wire commands only an unrecognized opcode writes PFAULT (10_state.md R34). -/
theorem performWire_pfault_writer (h : (performWire i s).pfault ≠ s.pfault) : ∃ op, i = .unknownOpcode op := by
  rcases performWire_cases i s with e | e | ⟨x, y, z, r, -, -, e⟩ | ⟨x, y, z, -, -, e⟩ | ⟨d, -, -, e⟩ |
    ⟨op, hi, -, -⟩
  case inr.inr.inr.inr.inr => exact ⟨op, hi⟩
  all_goals simp [e] at h

end

/-! ### The slice -/

section
variable (s : State)

@[simp] theorem slice_cfg : (slice s).cfg = s.cfg := by
  obtain ⟨h, -⟩ := slice_frame s; exact h
@[simp] theorem slice_tmem : (slice s).tmem = s.tmem := by
  obtain ⟨-, h, -⟩ := slice_frame s; exact h
@[simp] theorem slice_paused : (slice s).paused = s.paused := by
  obtain ⟨-, -, h, -⟩ := slice_frame s; exact h
@[simp] theorem slice_qmem : (slice s).qmem = s.qmem := by
  obtain ⟨-, -, -, h, -⟩ := slice_frame s; exact h
@[simp] theorem slice_qovf : (slice s).qovf = s.qovf := by
  obtain ⟨-, -, -, -, h, -⟩ := slice_frame s; exact h
@[simp] theorem slice_zones : (slice s).zones = s.zones := by
  obtain ⟨-, -, -, -, -, h, -⟩ := slice_frame s; exact h

/-- A slice emits at most one event, and reports no duty. -/
theorem slice_trace : (slice s).trace = s.trace ∨
    ∃ e, (slice s).trace = s.trace ++ [e] ∧ ∀ z d, e ≠ .writeDuty z d := by
  obtain ⟨-, -, -, -, -, -, -, -, -, -, -, -, h⟩ := slice_frame s; exact h

/-- What a slice can do to the registers other than MODE and DRESULT: nothing, or what the command at the head of the
queue does to them (42_dispatcher.md R202). -/
theorem slice_eq_performWire :
    (∃ m r, slice s = { s with mode := m, dresult := r }) ∨
    ∃ m op rest, queueWindow s = op :: rest ∧
      slice s = performWire (wireCommand s.cfg.opc op (queueWindow s)) { s with mode := m } := by
  obtain ⟨m, -, ⟨-, e⟩ | ⟨-, -, op, rest, hw, ⟨-, -, e⟩ | ⟨-, e⟩⟩⟩ := slice_cases s
  · exact .inl ⟨m, _, e⟩
  · exact .inl ⟨m, _, e⟩
  · exact .inr ⟨m, op, rest, hw, e⟩

/-- A slice leaves the ring registers alone, or pops bytes that are there (43_wire_commands.md R248). -/
theorem slice_queue :
    ((slice s).qhead = s.qhead ∧ (slice s).qlen = s.qlen) ∨
    ∃ n, n ≤ s.qlen.toNat ∧ (slice s).qhead = (queuePop n s).qhead ∧ (slice s).qlen = (queuePop n s).qlen := by
  rcases slice_eq_performWire s with ⟨m, r, e⟩ | ⟨m, op, rest, -, e⟩ <;> rw [e]
  · exact .inl ⟨rfl, rfl⟩
  · exact performWire_queue _ { s with mode := m }

/-- A slice writes the delay registers only with the delay opcode at the head of the queue (10_state.md R38). -/
theorem slice_delay_writer (h : (slice s).dlyStart ≠ s.dlyStart ∨ (slice s).dlyDur ≠ s.dlyDur) :
    ∃ rest, queueWindow s = s.cfg.opc.delay :: rest := by
  rcases slice_eq_performWire s with ⟨m, r, e⟩ | ⟨m, op, rest, hw, e⟩
  · simp [e] at h
  · rw [e] at h
    obtain ⟨d, hd⟩ := performWire_delay_writer _ { s with mode := m } h
    exact ⟨rest, eq_delay_of_wireCommand hd ▸ hw⟩

/-- A slice writes PFAULT only with an unrecognized opcode at the head of the queue (10_state.md R34). -/
theorem slice_pfault_writer (h : (slice s).pfault ≠ s.pfault) :
    ∃ op rest, queueWindow s = op :: rest ∧ s.cfg.opc.recognized op = false := by
  rcases slice_eq_performWire s with ⟨m, r, e⟩ | ⟨m, op, rest, hw, e⟩
  · simp [e] at h
  · rw [e] at h
    obtain ⟨b, hb⟩ := performWire_pfault_writer _ { s with mode := m } h
    exact ⟨op, rest, hw, not_recognized_of_wireCommand hb⟩

end

end Machine

end Sys2Proof
end

section
/-! PROOFS. What one transaction can do: the inversion of `exec` from which the whole-machine rules follow. -/

namespace Sys2Proof.Machine

open Claims

/-- The registers of a zone after SET_TARGET (41_heater.md R170). -/
def retarget (x : Temp) (u : Zone) : Zone := { u with target := x, maxt := maxTemperature x }

/-- The registers of a zone after SET_ENABLE with flag 1 (41_heater.md R173). -/
def enabled (u : Zone) : Zone := { u with en := true }

/-- The registers of a zone after SET_ENABLE with flag 0 (41_heater.md R173). -/
def disabled (u : Zone) : Zone := { u with en := false, duty := 0 }

/-- The registers of a zone of `s` after a firing tick (41_heater.md R161). -/
def ticked (s : State) (p : ZoneParams) (u : Zone) : Zone := firingTick s.cfg s.tmem p s.inp.now (adcReads s) u

/-- The effects one transaction can have. Whichever instruction it is, it may only respond (a status read, a paused
slice, a debounced call, a zone the block does not have); every other effect belongs to its instruction. -/
inductive Effect (s : State) : Instr → State → Prop where
  | responds (i : Instr) (v : Word) : Effect s i (respond v s)
  | pushes (b : Byte) (v : Word) : s.qlen.toNat < s.cfg.qCap → Effect s (.pushByte b) (respond v (queuePush b s))
  | overflows (b : Byte) (v : Word) : Effect s (.pushByte b) (respond v (setFault .queueOverflow s))
  | slices (v : Word) : Effect s .runSlice (respond v (slice s))
  | resets (v : Word) : Effect s .resetCommands (respond v (resetDispatcher s))
  | pauses (f : Bool) (v : Word) : Effect s (.pause f) (respond v { s with paused := f })
  | performs (i : Instr) : isWire i = true → Effect s i (performWire i s)
  | retargets (z : ZoneNum) (x : Temp) (p : ZoneParams) (u : Zone) (v : Word) : zoneUnit s z = some (p, u) →
      Effect s (.setTarget z x) (respond v (setZone z (retarget x u) s))
  | enables (z : ZoneNum) (p : ZoneParams) (u : Zone) (v : Word) : zoneUnit s z = some (p, u) →
      Effect s (.setEnable z true) (respond v (setZone z (enabled u) s))
  | disables (z : ZoneNum) (p : ZoneParams) (u : Zone) (v : Word) : zoneUnit s z = some (p, u) →
      Effect s (.setEnable z false) (respond v (emit (.writeDuty z 0) (setZone z (disabled u) s)))
  | ticks (z : ZoneNum) (p : ZoneParams) (u : Zone) (v : Word) (n : Nat) : zoneUnit s z = some (p, u) →
      Effect s (.manageTemperature z)
        (respond v (emit (.writeDuty z (ticked s p u).duty) (setZone z (ticked s p u) { s with draws := n })))

/-- A zone operation has an effect if it has one on every zone the block has (30_encoding.md R103). -/
theorem Effect.of_zoneOp {i : Instr} {s : State} {z : ZoneNum} {f : ZoneParams → Zone → State → State}
    (h : ∀ p u, zoneUnit s z = some (p, u) → Effect s i (f p u s)) : Effect s i (zoneOp z f s) := by
  rcases zoneOp_cases z f s with ⟨-, e⟩ | ⟨p, u, hu, e⟩ <;> rw [e]
  · exact .responds i 0
  · exact h p u hu

/-- Every instruction that answers a next state has one of the effects. -/
theorem effect_of_exec {i : Instr} {s t : State} (h : exec i s = .next t) : Effect s i t := by
  cases i <;> cases h
  case pushByte b =>
    rcases pushByte_cases b s with ⟨hq, e⟩ | ⟨-, e⟩ <;> rw [e]
    · exact .pushes b _ hq
    · exact .overflows b _
  case runSlice =>
    rcases runSlice_cases s with ⟨-, e⟩ | ⟨-, e⟩ <;> rw [e]
    · exact .responds _ _
    · exact .slices _
  case resetCommands => exact .resets _
  case pause f => exact .pauses f _
  case manageTemperature z =>
    refine .of_zoneOp fun p u hu => ?_
    rcases manageZone_cases z p u s with ⟨-, e⟩ | ⟨-, e⟩ <;> rw [e]
    · exact .responds _ _
    · exact .ticks z p u _ _ hu
  case setTarget z x => exact .of_zoneOp fun p u hu => .retargets z x p u _ hu
  case hasReached z => exact .of_zoneOp fun p u _ => .responds _ _
  case setEnable z f =>
    refine .of_zoneOp fun p u hu => ?_
    cases f
    · exact .disables z p u _ hu
    · exact .enables z p u _ hu
  case readZstat z => exact .of_zoneOp fun p u _ => .responds _ _
  case queuePointAbs x y z r => exact .performs (.queuePointAbs x y z r) rfl
  case setPosition x y z => exact .performs (.setPosition x y z) rfl
  case delay d => exact .performs (.delay d) rfl
  case unknownOpcode op => exact .performs (.unknownOpcode op) rfl
  all_goals exact .responds _ _

/-- No effect writes the configuration or TMEM (10_state.md R54, 20_memory.md R75). -/
theorem Effect.keeps_configuration {i : Instr} {s t : State} (h : Effect s i t) : t.cfg = s.cfg ∧ t.tmem = s.tmem := by
  cases h <;> simp

end Sys2Proof.Machine

namespace Sys2Proof.Claims

open Machine

/-- Settles O13: no effect of a transaction writes the configuration or TMEM, block reset keeps both, and without an
action of the outside the state is held. -/
theorem configurationAndTableNeverChange : Obligations.ConfigurationAndTableNeverChange := by
  refine ⟨fun s t h => ?_, fun i s t h => (effect_of_exec h).keeps_configuration⟩
  obtain ⟨-, ⟨-, rfl⟩ | ⟨rest, -, rfl⟩ | ⟨w, inp, rest, -, hexec⟩⟩ := step_cases h
  · exact ⟨rfl, rfl⟩
  · exact ⟨rfl, rfl⟩
  · exact (effect_of_exec hexec).keeps_configuration

/-- Settles O17: a slice and a wire command emit at most one event, a firing tick and a disabling SET_ENABLE exactly
one, and no other effect touches the trace. -/
theorem traceGrowsByAtMostOneEvent : Obligations.TraceGrowsByAtMostOneEvent := by
  intro i s t h
  cases effect_of_exec h with
  | slices v => exact (slice_trace s).imp_right fun ⟨e, he, _⟩ => ⟨e, he⟩
  | performs i _ => exact (performWire_trace i s).imp_right fun ⟨e, he, _⟩ => ⟨e, he⟩
  | disables => exact .inr ⟨_, rfl⟩
  | ticks => exact .inr ⟨_, rfl⟩
  | overflows => exact .inl (by simp)
  | _ => exact .inl rfl

end Sys2Proof.Claims
end

section
/-! PROOFS. The status words as sums of their fields (10_state.md R50, R51). -/

namespace Sys2Proof.Machine

/-- A concatenation as a number: the left part above the right one. -/
theorem toNat_append_add {n m : Nat} (x : BitVec n) (y : BitVec m) :
    (x ++ y).toNat = x.toNat * 2 ^ m + y.toNat := by
  rw [BitVec.toNat_append, ← Nat.shiftLeft_add_eq_or_of_lt y.isLt, Nat.shiftLeft_eq]

/-- DSTAT is the sum of its fields, each at its place (10_state.md R50). -/
theorem dstat_toNat (s : State) : (dstat s).toNat =
    s.qlen.toNat * 65536 + s.qovf.toNat * 64 + s.dresult.code.toNat * 16 + s.pfault.toNat * 8 + s.paused.toNat * 4 +
      s.mode.code.toNat := by
  simp only [dstat, toNat_append_add, BitVec.toNat_ofBool, BitVec.toNat_ofNat]
  omega

/-- ZSTAT is the sum of its fields, each at its place (10_state.md R51). -/
theorem zstat_toNat (u : Zone) : (zstat u).toNat =
    (reached u).toNat * 67108864 + u.sfault.toNat * 33554432 + u.en.toNat * 16777216 + u.duty.toNat * 65536 +
      u.cur.toNat := by
  simp only [zstat, toNat_append_add, BitVec.toNat_ofBool, BitVec.toNat_ofNat]
  omega

/-- DSTAT's single-bit fields (10_state.md R50). -/
theorem dstat_flags (s : State) :
    (dstat s).getLsbD 2 = s.paused ∧ (dstat s).getLsbD 3 = s.pfault ∧ (dstat s).getLsbD 6 = s.qovf := by
  simp only [dstat, BitVec.getLsbD_append]
  simp

/-- ZSTAT's single-bit fields (10_state.md R51). -/
theorem zstat_flags (u : Zone) :
    (zstat u).getLsbD 24 = u.en ∧ (zstat u).getLsbD 25 = u.sfault ∧ (zstat u).getLsbD 26 = reached u := by
  simp only [zstat, BitVec.getLsbD_append]
  simp

end Sys2Proof.Machine

namespace Sys2Proof.Claims

open Machine

/-- Settles O38: the response is DSTAT, whose number is the sum of its fields; every field below QLEN is bounded by its
width. -/
theorem readDstatLayout : Obligations.ReadDstatLayout := by
  intro s
  obtain ⟨hpaused, hpfault, hqovf⟩ := dstat_flags s
  have hsum := dstat_toNat s
  have hmode := s.mode.code.isLt
  have hresult := s.dresult.code.isLt
  have h1 := s.pfault.toNat_le
  have h2 := s.paused.toNat_le
  have h3 := s.qovf.toNat_le
  have hmodeField : (dstat s).toNat % 4 = s.mode.code.toNat := by omega
  have hresultField : (dstat s).toNat / 16 % 4 = s.dresult.code.toNat := by omega
  refine ⟨dstat s, rfl, ?_, hpaused, hpfault, ?_, hqovf, ?_, ?_⟩
  · rw [hmodeField]; cases s.mode <;> rfl
  · rw [hresultField]; cases s.dresult <;> rfl
  · omega
  · omega

/-- Settles O44: the response is ZSTAT, whose number is the sum of its fields; every field is bounded by its width, and
the five bits above them are 0. -/
theorem readZstatLayout : Obligations.ReadZstatLayout := by
  intro s z p u hu
  have hexec : exec (.readZstat z) s = .next (respond (zstat u) s) := by
    show Host.Outcome.next (zoneOp z _ s) = _
    rw [zoneOp, hu]
  obtain ⟨hen, hsfault, hreached⟩ := zstat_flags u
  have hsum := zstat_toNat u
  have hcur := u.cur.isLt
  have hduty := u.duty.isLt
  have h1 := u.en.toNat_le
  have h2 := u.sfault.toNat_le
  have h3 := (reached u).toNat_le
  refine ⟨zstat u, hexec, ?_, ?_, hen, hsfault, hreached, ?_⟩
  · omega
  · omega
  · omega

end Sys2Proof.Claims
end

section
/-! PROOFS. Which operations write each register (10_state.md R30, R32 to R49). -/

namespace Sys2Proof.Machine

open Claims

/-! ### The dispatcher's registers -/

section
variable {i : Instr} {s t : State}

/-- `PAUSED`: PAUSE (10_state.md R33). -/
theorem Effect.paused_writer (h : Effect s i t) (hne : t.paused ≠ s.paused) : ∃ f, i = .pause f := by
  cases h with
  | pauses f => exact ⟨f, rfl⟩
  | _ => simp at hne

/-- `QBUF`: PUSH_BYTE (10_state.md R36). -/
theorem Effect.qmem_writer (h : Effect s i t) (hne : t.qmem ≠ s.qmem) : ∃ b, i = .pushByte b := by
  cases h with
  | pushes b => exact ⟨b, rfl⟩
  | _ => simp at hne

/-- `QOVF`: PUSH_BYTE and RESET_COMMANDS (10_state.md R37). -/
theorem Effect.qovf_writer (h : Effect s i t) (hne : t.qovf ≠ s.qovf) :
    (∃ b, i = .pushByte b) ∨ i = .resetCommands := by
  cases h with
  | overflows b => exact .inl ⟨b, rfl⟩
  | resets => exact .inr rfl
  | _ => simp at hne

/-- `QLEN`: PUSH_BYTE, the dispatch of a command, and RESET_COMMANDS (10_state.md R36). -/
theorem Effect.qlen_writer (h : Effect s i t) (hne : t.qlen ≠ s.qlen) :
    (∃ b, i = .pushByte b) ∨ i = .runSlice ∨ i = .resetCommands ∨ isWire i = true := by
  cases h with
  | pushes b => exact .inl ⟨b, rfl⟩
  | slices => exact .inr (.inl rfl)
  | resets => exact .inr (.inr (.inl rfl))
  | performs i hi => exact .inr (.inr (.inr hi))
  | _ => simp at hne

/-- `QHEAD` and `DRESULT`: the dispatch of a command, and RESET_COMMANDS (10_state.md R35, R36). -/
theorem Effect.qhead_dresult_writer (h : Effect s i t) (hne : t.qhead ≠ s.qhead ∨ t.dresult ≠ s.dresult) :
    i = .runSlice ∨ i = .resetCommands ∨ isWire i = true := by
  cases h with
  | slices => exact .inl rfl
  | resets => exact .inr (.inl rfl)
  | performs i hi => exact .inr (.inr hi)
  | _ => simp at hne

/-- `MODE`: the slice, RESET_COMMANDS, and of the wire commands the move and DELAY (10_state.md R32). -/
theorem Effect.mode_writer (h : Effect s i t) (hne : t.mode ≠ s.mode) :
    i = .runSlice ∨ i = .resetCommands ∨ (∃ x y z r, i = .queuePointAbs x y z r) ∨ ∃ d, i = .delay d := by
  cases h with
  | slices => exact .inl rfl
  | resets => exact .inr (.inl rfl)
  | performs i _ => exact .inr (.inr (performWire_mode_writer i s hne))
  | _ => simp at hne

/-- `DLY_START` and `DLY_DUR`: DELAY and RESET_COMMANDS (10_state.md R38). -/
theorem Effect.delay_writer (h : Effect s i t) (hne : t.dlyStart ≠ s.dlyStart ∨ t.dlyDur ≠ s.dlyDur) :
    (i = .runSlice ∧ ∃ rest, queueWindow s = s.cfg.opc.delay :: rest) ∨ i = .resetCommands ∨ ∃ d, i = .delay d := by
  cases h with
  | slices => exact .inl ⟨rfl, slice_delay_writer s hne⟩
  | resets => exact .inr (.inl rfl)
  | performs i _ => exact .inr (.inr (performWire_delay_writer i s hne))
  | _ => simp at hne

/-- `PFAULT`: an unrecognized opcode and RESET_COMMANDS (10_state.md R34). -/
theorem Effect.pfault_writer (h : Effect s i t) (hne : t.pfault ≠ s.pfault) :
    (i = .runSlice ∧ ∃ op rest, queueWindow s = op :: rest ∧ s.cfg.opc.recognized op = false) ∨
      i = .resetCommands ∨ ∃ op, i = .unknownOpcode op := by
  cases h with
  | slices => exact .inl ⟨rfl, slice_pfault_writer s hne⟩
  | resets => exact .inr (.inl rfl)
  | performs i _ => exact .inr (.inr (performWire_pfault_writer i s hne))
  | _ => simp at hne

/-- The number of zones stays. -/
theorem Effect.zones_length (h : Effect s i t) : t.zones.length = s.zones.length := by
  cases h <;> simp

end

/-! ### The zones' registers -/

section
variable (s : State) (p : ZoneParams) (u : Zone)

@[simp] theorem ticked_target : (ticked s p u).target = u.target := by simp [ticked, firingTick]
@[simp] theorem ticked_maxt : (ticked s p u).maxt = u.maxt := by simp [ticked, firingTick]
@[simp] theorem ticked_en : (ticked s p u).en = u.en := by simp [ticked, firingTick]

end

/-- The change of zone `k`'s registers from `u` to `u'` by the instruction `i` writes each register only as
10_state.md R39 to R49 name its writers. -/
def ZoneWriters (i : Instr) (k : Nat) (u u' : Zone) : Prop :=
  (u'.target ≠ u.target ∨ u'.maxt ≠ u.maxt → ∃ z x, i = .setTarget z x ∧ z.toNat = k) ∧
  (u'.cur ≠ u.cur ∨ u'.acc ≠ u.acc ∨ u'.prev ≠ u.prev ∨ u'.lastTick ≠ u.lastTick ∨ u'.hist ≠ u.hist ∨
    u'.hidx ≠ u.hidx ∨ u'.sfault ≠ u.sfault → ∃ z, i = .manageTemperature z ∧ z.toNat = k) ∧
  (u'.duty ≠ u.duty → ∃ z, (i = .manageTemperature z ∨ i = .setEnable z false) ∧ z.toNat = k) ∧
  (u'.en ≠ u.en → ∃ z f, i = .setEnable z f ∧ z.toNat = k)

/-- An unchanged zone has no register written. -/
theorem ZoneWriters.refl (i : Instr) (k : Nat) (u : Zone) : ZoneWriters i k u u := by simp [ZoneWriters]

/-- SET_TARGET writes `TARGET` and `MAXT` (10_state.md R39, R40). -/
theorem zoneWriters_retarget (z : ZoneNum) (x : Temp) (u : Zone) :
    ZoneWriters (.setTarget z x) z.toNat u (retarget x u) := by
  simp [ZoneWriters, retarget]

/-- An enabling SET_ENABLE writes `EN` (10_state.md R45). -/
theorem zoneWriters_enabled (z : ZoneNum) (u : Zone) : ZoneWriters (.setEnable z true) z.toNat u (enabled u) := by
  simp [ZoneWriters, enabled]

/-- A disabling SET_ENABLE writes `EN` and `DUTY` (10_state.md R44, R45). -/
theorem zoneWriters_disabled (z : ZoneNum) (u : Zone) : ZoneWriters (.setEnable z false) z.toNat u (disabled u) := by
  simp [ZoneWriters, disabled]

/-- A firing tick writes no `TARGET`, `MAXT` or `EN` (10_state.md R39, R40, R45). -/
theorem zoneWriters_ticked (z : ZoneNum) (s : State) (p : ZoneParams) (u : Zone) :
    ZoneWriters (.manageTemperature z) z.toNat u (ticked s p u) := by
  simp [ZoneWriters]

/-- Writing the registers of one zone `z` changes zone `k` only if it is that zone. -/
theorem ZoneWriters.of_setZone {i : Instr} {s : State} {z : ZoneNum} {p : ZoneParams} {w w' u u' : Zone} {k : Nat}
    (hw : ZoneWriters i z.toNat w w') (hz : zoneUnit s z = some (p, w)) (hu : s.zones[k]? = some u)
    (hu' : (s.zones.set z.toNat w')[k]? = some u') : ZoneWriters i k u u' := by
  obtain ⟨-, hzw⟩ := zoneUnit_eq_some.1 hz
  by_cases hk : z.toNat = k
  · subst hk
    have hlt := (List.getElem?_eq_some_iff.1 hu).1
    rw [List.getElem?_set_self hlt] at hu'
    cases hu'
    cases hzw.symm.trans hu
    exact hw
  · rw [List.getElem?_set_ne hk, hu] at hu'
    cases hu'
    exact .refl i k u

/-- Each register of each zone is written only by its writers. -/
theorem Effect.zone_writers {i : Instr} {s t : State} (h : Effect s i t) {k : Nat} {u u' : Zone}
    (hu : s.zones[k]? = some u) (hu' : t.zones[k]? = some u') : ZoneWriters i k u u' := by
  cases h with
  | retargets z x p w _ hz => exact (zoneWriters_retarget z x w).of_setZone hz hu hu'
  | enables z p w _ hz => exact (zoneWriters_enabled z w).of_setZone hz hu hu'
  | disables z p w _ hz => exact (zoneWriters_disabled z w).of_setZone hz hu hu'
  | ticks z p w _ _ hz => exact (zoneWriters_ticked z s p w).of_setZone hz hu hu'
  | _ =>
    simp only [respond_zones, queuePush_zones, setFault_zones, slice_zones, resetDispatcher_zones,
      performWire_zones] at hu'
    cases hu.symm.trans hu'
    exact .refl _ k u

end Sys2Proof.Machine

namespace Sys2Proof.Claims

open Machine

/-- Settles O14: register by register, from the effects a transaction can have. -/
theorem registersHaveOnlyTheirWriters : Obligations.RegistersHaveOnlyTheirWriters := by
  intro i s t h
  have he := effect_of_exec h
  exact ⟨he.paused_writer, he.qmem_writer, he.qovf_writer, he.qlen_writer, he.qhead_dresult_writer, he.mode_writer,
    he.delay_writer, he.pfault_writer, he.zones_length, fun _ _ _ hu hu' => he.zone_writers hu hu'⟩

end Sys2Proof.Claims
end

section
/-! PROOFS. The invariant of the block is kept: first the queue's part, then one zone's, then the reported duty's, and
from them every effect of a transaction (20_memory.md R73, 41_heater.md R169, R171, R173, 10_state.md R44). -/

namespace Sys2Proof.Machine

/-! ### The queue -/

section
variable {s t : State}

/-- The queue's invariant speaks of the configuration, the buffer and the ring registers only. -/
theorem State.QueueInv.congr (h : s.QueueInv) (hcfg : t.cfg = s.cfg) (hmem : t.qmem = s.qmem)
    (hhead : t.qhead = s.qhead) (hlen : t.qlen = s.qlen) : t.QueueInv where
  qhead_lt := by rw [hhead, hcfg]; exact h.qhead_lt
  qlen_le := by rw [hlen, hcfg]; exact h.qlen_le
  qmem_wf := by rw [hmem]; exact h.qmem_wf
  qmem_in_range := by rw [hmem, hcfg]; exact h.qmem_in_range
  window_written := by
    intro k hk
    rw [hlen] at hk
    rw [hmem, queueIndex, hhead, hcfg]
    exact h.window_written k hk

/-- A buffer index lies inside the buffer. -/
theorem queueIndex_lt (s : State) (k : Nat) (h : 0 < s.cfg.qCap) : queueIndex s k < s.cfg.qCap := Nat.mod_lt _ h

/-- An empty queue at the start of its buffer, as the resets leave it. -/
theorem State.QueueInv.of_empty (hcap : 0 < s.cfg.qCap) (hhead : s.qhead = 0) (hlen : s.qlen = 0)
    (hwf : s.qmem.wf = true) (hrange : ∀ a b, s.qmem.read a = some b → a < s.cfg.qCap) : s.QueueInv where
  qhead_lt := by simpa [hhead] using hcap
  qlen_le := by simp [hlen]
  qmem_wf := hwf
  qmem_in_range := hrange
  window_written := by simp [hlen]

/-- `Q.push` on a queue with room: the window's new last cell is the one just written. -/
theorem State.QueueInv.queuePush (h : s.QueueInv) (hcap : s.cfg.qCap ≤ 65535) (hroom : s.qlen.toNat < s.cfg.qCap)
    (b : Byte) : (queuePush b s).QueueInv := by
  have hlen : (s.qlen + 1).toNat = s.qlen.toNat + 1 := by
    rw [BitVec.toNat_add]; simp; omega
  refine ⟨h.qhead_lt, ?_, queuePush_wf s b h.qmem_wf, ?_, ?_⟩
  · rw [queuePush_qlen, hlen]; exact hroom
  · intro a c hread
    rw [queuePush_qmem, Memory.read_write] at hread
    split at hread
    · next ha => exact ha ▸ queueIndex_lt s _ (by omega)
    · exact h.qmem_in_range a c hread
  · intro k hk
    rw [queuePush_qlen, hlen] at hk
    show ((s.qmem.write _ b).read (queueIndex s k)).isSome = true
    rw [Memory.read_write]
    split
    · rfl
    · next hne =>
      have hold : k ≠ s.qlen.toNat := fun e => hne (e ▸ rfl)
      exact h.window_written k (by omega)

/-- `Q.pop` of bytes that are there: the window's cells are among those before. -/
theorem State.QueueInv.queuePop (h : s.QueueInv) (hcap : s.cfg.qCap ≤ 65535) {n : Nat} (hn : n ≤ s.qlen.toNat) :
    (queuePop n s).QueueInv := by
  have hindex := queueIndex_lt s n (by have := h.qhead_lt; omega)
  have hhead : (BitVec.ofNat 16 (queueIndex s n)).toNat = queueIndex s n := by
    rw [BitVec.toNat_ofNat]; exact Nat.mod_eq_of_lt (by omega)
  have hlen : (s.qlen - BitVec.ofNat 16 n).toNat = s.qlen.toNat - n := by
    have := s.qlen.isLt
    rw [BitVec.toNat_sub, BitVec.toNat_ofNat]; omega
  refine ⟨?_, ?_, h.qmem_wf, h.qmem_in_range, ?_⟩
  · rw [queuePop_qhead, hhead]; exact hindex
  · rw [queuePop_qlen, hlen]; exact (Nat.sub_le _ _).trans h.qlen_le
  · intro k hk
    rw [queuePop_qlen, hlen] at hk
    have hcell : queueIndex (Machine.queuePop n s) k = queueIndex s (n + k) := by
      rw [queueIndex, queuePop_qhead, hhead, queuePop_cfg, queueIndex, queueIndex, Nat.mod_add_mod, Nat.add_assoc]
    rw [hcell]
    exact h.window_written (n + k) (by omega)

/-- What leaves the ring registers alone, or pops bytes that are there, and writes no queue byte, keeps the queue's
invariant. -/
theorem State.QueueInv.of_pop (h : s.QueueInv) (hcap : s.cfg.qCap ≤ 65535) (hcfg : t.cfg = s.cfg)
    (hmem : t.qmem = s.qmem)
    (hq : (t.qhead = s.qhead ∧ t.qlen = s.qlen) ∨
      ∃ n, n ≤ s.qlen.toNat ∧ t.qhead = (Machine.queuePop n s).qhead ∧ t.qlen = (Machine.queuePop n s).qlen) :
    t.QueueInv := by
  rcases hq with ⟨hhead, hlen⟩ | ⟨n, hn, hhead, hlen⟩
  · exact h.congr hcfg hmem hhead hlen
  · exact (h.queuePop hcap hn).congr hcfg hmem hhead hlen

end

/-! ### One zone's registers -/

section
variable {c : Config} {p : ZoneParams} {u : Zone}

/-- The registers after block reset meet the zone's invariant (70_reset_and_hazards.md R301). -/
theorem zoneInv_reset (hc : legalConfig c = true) (hp : p ∈ c.zones) : (Zone.reset c).Inv c p := by
  obtain ⟨-, ⟨hnHist, -⟩, -⟩ := legalConfig_spec hc
  obtain ⟨hiMin, hiMax, -⟩ := legalConfig_zone_bounds hc hp
  exact ⟨by simp [Zone.reset], hnHist, hiMin, hiMax, Nat.zero_le _, fun _ => rfl,
    (by decide : (0 : Temp) = maxTemperature 0), rfl⟩

/-- SET_TARGET writes MAXT with TARGET (10_state.md R40). -/
theorem Zone.Inv.retarget (h : u.Inv c p) (x : Temp) : (retarget x u).Inv c p :=
  { h with maxt_eq := rfl }

/-- Enabling leaves the duty alone, which a sensor fault has forced to 0 and keeps at 0 (41_heater.md R171). -/
theorem Zone.Inv.enabled (h : u.Inv c p) : (enabled u).Inv c p :=
  { h with off_when_forced := fun hoff => h.off_when_forced (.inr (hoff.resolve_left (by simp [Machine.enabled]))) }

/-- Disabling drives the duty to 0 (41_heater.md R173). -/
theorem Zone.Inv.disabled (h : u.Inv c p) : (disabled u).Inv c p :=
  { h with duty_le := Nat.zero_le _, off_when_forced := fun _ => rfl }

/-- The accumulator that the control law writes is within the clamp (10_state.md R42). -/
theorem lawAcc_range (hp : legalZone c p = true) (h : p.iMin ≤ u.acc.toInt ∧ u.acc.toInt ≤ p.iMax) :
    p.iMin ≤ (lawAcc p u).toInt ∧ (lawAcc p u).toInt ≤ p.iMax := by
  obtain ⟨-, -, -, ⟨hmin, -⟩, ⟨-, hmax⟩, -⟩ := legalZone_spec hp
  have hnext := nextAcc_range hp u
  unfold lawAcc
  split
  · rw [toInt_ofInt32 (by omega) (by omega)]; exact hnext
  · exact h

/-- The control law and the output forcing establish the clauses on the accumulator, the duty and PREV. -/
theorem Zone.Inv.controlStep (hc : legalConfig c = true) (hp : p ∈ c.zones) (hlen : u.hist.length = c.nHist)
    (hidx : u.hidx.toNat < c.nHist) (hacc : p.iMin ≤ u.acc.toInt ∧ u.acc.toInt ≤ p.iMax)
    (hmaxt : u.maxt = maxTemperature u.target) : (controlStep c p u).Inv c p := by
  obtain ⟨-, -, -, -, -, -, -, ⟨-, hduty⟩, -, -, -, -, hzones⟩ := legalConfig_spec hc
  have hlegal := hzones p hp
  obtain ⟨hge, hle⟩ := lawAcc_range hlegal hacc
  obtain ⟨hout0, hout⟩ := lawOutput_range hlegal u
  exact ⟨hlen, hidx, hge, hle, forcedDuty_le hduty hout0 hout u, fun hoff => if_pos hoff, hmaxt, rfl⟩

/-- A firing tick keeps the zone's invariant: the sampling step keeps the ring's shape, and the control step does the
rest. -/
theorem Zone.Inv.ticked (h : u.Inv c p) {s : State} (hs : s.cfg = c) (hc : legalConfig c = true) (hp : p ∈ c.zones) :
    (ticked s p u).Inv c p := by
  subst hs
  obtain ⟨-, ⟨hnHist, hnHist16⟩, -⟩ := legalConfig_spec hc
  refine .controlStep hc hp ?_ ?_ ?_ ?_
  · rw [sampleStep_hist, List.length_set]; exact h.hist_length
  · have := Nat.mod_lt (u.hidx.toNat + 1) hnHist
    simp only [sampleStep_hidx, BitVec.toNat_ofNat]
    omega
  · rw [sampleStep_acc]; exact ⟨h.acc_ge, h.acc_le⟩
  · rw [sampleStep_maxt, sampleStep_target]; exact h.maxt_eq

end

/-! ### The zones together -/

/-- Related lists stay so when an entry of the second gives way to one that is related to its partner. -/
theorem forall₂_set {α β : Type} {R : α → β → Prop} {as : List α} {bs : List β} (h : List.Forall₂ R as bs) {k : Nat}
    {a : α} {b : β} (ha : as[k]? = some a) (hab : R a b) : List.Forall₂ R as (bs.set k b) := by
  induction h generalizing k with
  | nil => exact .nil
  | cons hhead htail ih =>
    cases k with
    | zero => cases ha; exact .cons hab htail
    | succ k => exact .cons hhead (ih ha)

/-- Partners in related lists are related. -/
theorem rel_of_forall₂ {α β : Type} {R : α → β → Prop} {as : List α} {bs : List β} (h : List.Forall₂ R as bs) {k : Nat}
    {a : α} {b : β} (ha : as[k]? = some a) (hb : bs[k]? = some b) : R a b := by
  induction h generalizing k with
  | nil => cases ha
  | cons hhead _ ih =>
    cases k with
    | zero => cases ha; cases hb; exact hhead
    | succ k => exact ih ha hb

/-- A zone the block has meets its invariant, under parameters of the configuration. -/
theorem State.Inv.zone {s : State} (h : s.Inv) {z : ZoneNum} {p : ZoneParams} {u : Zone}
    (hz : zoneUnit s z = some (p, u)) : p ∈ s.cfg.zones ∧ u.Inv s.cfg p := by
  obtain ⟨hp, hu⟩ := zoneUnit_eq_some.1 hz
  exact ⟨List.mem_of_getElem? hp, rel_of_forall₂ h.zones hp hu⟩

/-! ### The reported duty -/

/-- A reported duty is the last one of its zone, and leaves the other zones' last ones alone. -/
theorem lastDuty_append_writeDuty (tr : List Event) (z z' : ZoneNum) (d : BitVec 8) :
    lastDuty (tr ++ [.writeDuty z d]) z' = if z = z' then d else lastDuty tr z' := by
  simp [lastDuty]

/-- An event that reports no duty leaves every zone's last one alone. -/
theorem lastDuty_append_of_ne {tr : List Event} {e : Event} (he : ∀ z d, e ≠ .writeDuty z d) (z : ZoneNum) :
    lastDuty (tr ++ [e]) z = lastDuty tr z := by
  cases e with
  | writeDuty z d => exact absurd rfl (he z d)
  | _ => simp [lastDuty]

/-- The port of the zone whose registers are written is its new duty (10_state.md R44). -/
theorem dutyOut_setZone_self {s : State} {z : ZoneNum} {d : BitVec 8} {u' : Zone}
    (h : dutyOut (setZone z u' s) z = some d) : d = u'.duty := by
  obtain ⟨w, hw, rfl⟩ := Option.map_eq_some_iff.1 h
  have hlt : z.toNat < s.zones.length := by
    simpa using (List.getElem?_eq_some_iff.1 hw).1
  rw [setZone_zones, List.getElem?_set_self hlt] at hw
  cases hw; rfl

/-- The other zones' ports stay. -/
theorem dutyOut_setZone_ne (s : State) {z z' : ZoneNum} (h : z ≠ z') (u' : Zone) :
    dutyOut (setZone z u' s) z' = dutyOut s z' := by
  have hne : z.toNat ≠ z'.toNat := fun e => h (BitVec.eq_of_toNat_eq e)
  simp only [dutyOut, setZone_zones, List.getElem?_set_ne hne]

/-! ### The block -/

section
variable {s t : State}

/-- The port of every zone is the last duty that the trace reports for it. -/
theorem duty_reported_of_trace (h : ∀ z d, dutyOut s z = some d → d = lastDuty s.trace z) (hzones : t.zones = s.zones)
    (htrace : t.trace = s.trace ∨ ∃ e, t.trace = s.trace ++ [e] ∧ ∀ z d, e ≠ .writeDuty z d) :
    ∀ z d, dutyOut t z = some d → d = lastDuty t.trace z := by
  intro z d hd
  rw [dutyOut, hzones] at hd
  rcases htrace with e | ⟨e, he, hne⟩
  · rw [e]; exact h z d hd
  · rw [he, lastDuty_append_of_ne hne]; exact h z d hd

/-- An effect on the dispatcher alone keeps the invariant if it keeps the queue's. -/
theorem State.Inv.of_queue (h : s.Inv) (hcfg : t.cfg = s.cfg) (hq : t.QueueInv) (hzones : t.zones = s.zones)
    (htrace : t.trace = s.trace ∨ ∃ e, t.trace = s.trace ++ [e] ∧ ∀ z d, e ≠ .writeDuty z d) : t.Inv where
  legal := hcfg ▸ h.legal
  queue := hq
  zones := by rw [hcfg, hzones]; exact h.zones
  duty_reported := duty_reported_of_trace h.duty_reported hzones htrace

/-- The invariant speaks of the configuration, the queue, the zones and the trace only. -/
theorem State.Inv.congr (h : s.Inv) (hcfg : t.cfg = s.cfg) (hmem : t.qmem = s.qmem) (hhead : t.qhead = s.qhead)
    (hlen : t.qlen = s.qlen) (hzones : t.zones = s.zones) (htrace : t.trace = s.trace) : t.Inv :=
  h.of_queue hcfg (h.queue.congr hcfg hmem hhead hlen) hzones (.inl htrace)

/-- The response word is none of the invariant's registers. -/
theorem State.Inv.respond (h : s.Inv) (v : Word) : (respond v s).Inv := h.congr rfl rfl rfl rfl rfl rfl

/-- Writing a zone's registers without touching its duty needs no report. -/
theorem State.Inv.setZone (h : s.Inv) {z : ZoneNum} {p : ZoneParams} {u u' : Zone} (hz : zoneUnit s z = some (p, u))
    (hu' : u'.Inv s.cfg p) (hduty : u'.duty = u.duty) : (setZone z u' s).Inv := by
  obtain ⟨hp, hu⟩ := zoneUnit_eq_some.1 hz
  refine ⟨h.legal, h.queue.congr rfl rfl rfl rfl, forall₂_set h.zones hp hu', fun z' d hd => ?_⟩
  by_cases e : z = z'
  · subst e
    rw [dutyOut_setZone_self hd, hduty]
    exact h.duty_reported z u.duty (by simp [dutyOut, hu])
  · rw [dutyOut_setZone_ne s e] at hd
    exact h.duty_reported z' d hd

/-- Writing a zone's registers and reporting the duty. -/
theorem State.Inv.setZone_report (h : s.Inv) {z : ZoneNum} {p : ZoneParams} {u u' : Zone}
    (hz : zoneUnit s z = some (p, u)) (hu' : u'.Inv s.cfg p) :
    (emit (.writeDuty z u'.duty) (Machine.setZone z u' s)).Inv := by
  obtain ⟨hp, -⟩ := zoneUnit_eq_some.1 hz
  refine ⟨h.legal, h.queue.congr rfl rfl rfl rfl, forall₂_set h.zones hp hu', fun z' d hd => ?_⟩
  replace hd : dutyOut (Machine.setZone z u' s) z' = some d := hd
  rw [emit_trace, setZone_trace, lastDuty_append_writeDuty]
  split
  · next e => subst e; exact dutyOut_setZone_self hd
  · next e =>
    rw [dutyOut_setZone_ne s e] at hd
    exact h.duty_reported z' d hd

/-- Every effect of a transaction keeps the invariant. -/
theorem State.Inv.effect {i : Instr} (h : s.Inv) (he : Effect s i t) : t.Inv := by
  obtain ⟨-, -, -, -, -, -, -, -, -, -, ⟨hcap17, hcap⟩, -, -⟩ := legalConfig_spec h.legal
  cases he with
  | responds _ v => exact h.respond v
  | pushes b v hroom =>
    have hs : (queuePush b s).Inv := h.of_queue rfl (h.queue.queuePush hcap hroom b) rfl (.inl rfl)
    exact hs.respond v
  | overflows b v => exact h.congr (by simp) (by simp) (by simp) (by simp) (by simp) (by simp)
  | slices v =>
    have hs : (slice s).Inv := h.of_queue (slice_cfg s)
      (h.queue.of_pop hcap (slice_cfg s) (slice_qmem s) (slice_queue s)) (slice_zones s) (slice_trace s)
    exact hs.respond v
  | resets v =>
    have hs : (resetDispatcher s).Inv := h.of_queue rfl
      (.of_empty (show 0 < s.cfg.qCap by omega) rfl rfl h.queue.qmem_wf h.queue.qmem_in_range) rfl (.inl rfl)
    exact hs.respond v
  | pauses f v => exact h.congr rfl rfl rfl rfl rfl rfl
  | performs i _ =>
    exact h.of_queue (performWire_cfg i s)
      (h.queue.of_pop hcap (performWire_cfg i s) (performWire_qmem i s) (performWire_queue i s))
      (performWire_zones i s) (performWire_trace i s)
  | retargets z x p u v hz =>
    obtain ⟨-, hu⟩ := h.zone hz
    exact (h.setZone hz (hu.retarget x) rfl).respond v
  | enables z p u v hz =>
    obtain ⟨-, hu⟩ := h.zone hz
    exact (h.setZone hz hu.enabled rfl).respond v
  | disables z p u v hz =>
    obtain ⟨-, hu⟩ := h.zone hz
    exact (h.setZone_report hz hu.disabled).respond v
  | ticks z p u v n hz =>
    obtain ⟨hp, hu⟩ := h.zone hz
    have hs : ({ s with draws := n } : State).Inv := h.congr rfl rfl rfl rfl rfl rfl
    exact (hs.setZone_report hz (hu.ticked rfl h.legal hp)).respond v

/-- The block right after reset meets the invariant, under every legal configuration and calibration store
(70_reset_and_hazards.md R301). -/
theorem resetWith_inv {c : Config} (hc : legalConfig c = true) (t : Calibration) : (State.resetWith c t).Inv where
  legal := hc
  queue := by
    obtain ⟨-, -, -, -, -, -, -, -, -, -, ⟨hcap, -⟩, -, -⟩ := legalConfig_spec hc
    exact .of_empty (show 0 < c.qCap by omega) rfl rfl rfl fun _ _ hread => by cases hread
  zones := List.forall₂_map_right_iff.2 (List.forall₂_same.2 fun _ hp => zoneInv_reset hc hp)
  duty_reported := by
    intro z d hd
    obtain ⟨u, hu, rfl⟩ := Option.map_eq_some_iff.1 hd
    obtain ⟨p, -, rfl⟩ := List.mem_map.1 (List.mem_of_getElem? hu)
    rfl

/-- Block reset establishes the invariant, whatever the state before (70_reset_and_hazards.md R300). -/
theorem blockReset_inv (h : legalConfig s.cfg = true) : (blockReset s).Inv :=
  (resetWith_inv h s.tmem).congr rfl rfl rfl rfl rfl rfl

end

end Sys2Proof.Machine

namespace Sys2Proof.Claims

open Machine

/-- Settles O12: taking the outside's action leaves everything the invariant speaks of alone; then every effect of the
transaction keeps it, and block reset establishes it. -/
theorem everyStepKeepsTheInvariant : Obligations.EveryStepKeepsTheInvariant := by
  intro s t h hstep
  obtain ⟨hlegal, ⟨-, rfl⟩ | ⟨rest, -, rfl⟩ | ⟨w, inp, rest, -, hexec⟩⟩ := step_cases hstep
  · exact h
  · exact blockReset_inv hlegal
  · have hs : ({ s with pending := rest, inp := inp } : State).Inv := h.congr rfl rfl rfl rfl rfl rfl
    exact hs.effect (effect_of_exec hexec)

end Sys2Proof.Claims
end

section
/-! PROOFS. The step forwards: what the fetch answers for a transaction, and what a legal block does with the answer
(20_memory.md R80). -/

namespace Sys2Proof.Machine

section
variable {s : State}

/-- With a transaction next, the fetch answers its word and the state that has its inputs current (10_state.md R53). -/
theorem fetch_of_transaction {w : Word} {inp : Inputs} {rest : List HostAction}
    (h : s.pending = .transaction w inp :: rest) : fetch s = .host w { s with pending := rest, inp := inp } := by
  simp only [fetch, h]

/-- A legal block performs the word it fetched. -/
theorem step_of_fetch_host {w : Word} {t : State} (hc : legalConfig s.cfg = true) (hf : fetch s = .host w t) :
    step s = exec (decodeHost w) t := by
  simp only [step, hc, if_true, hf]

end

end Sys2Proof.Machine

namespace Sys2Proof.Claims

open Machine

/-- Settles O7: the transaction is what the fetch answers, and a legal block performs what was fetched. -/
theorem stepRunsTheDecodedInstruction : Obligations.StepRunsTheDecodedInstruction :=
  fun _ _ _ _ hlegal hpending => step_of_fetch_host hlegal (fetch_of_transaction hpending)

end Sys2Proof.Claims
end

section
/-! PROOFS. A host word and its four fields: each field reads back whatever the reserved byte holds, the word is the
fields side by side, and masking the word masks the fields (30_encoding.md R100 to R103). -/

namespace Sys2Proof

open Machine (toNat_append_add)

/-! ### The fields of a word with any reserved byte -/

section
variable (w : Word) (hop : BitVec 4) (zone : ZoneNum) (res : BitVec 8) (arg : BitVec 16)

/-- PUSH_BYTE's operand is the low byte of ARG (30_encoding.md R101). -/
theorem byteField_eq : byteField w = (argField w).setWidth 8 := by
  refine BitVec.eq_of_toNat_eq ?_
  simp only [byteField, argField, BitVec.extractLsb'_toNat, BitVec.toNat_setWidth, Nat.shiftRight_eq_div_pow]
  omega

/-- The flag operand is the low bit of ARG (30_encoding.md R101). -/
theorem flagField_eq : flagField w = (argField w).getLsbD 0 := by
  simp [flagField, argField]

@[simp] theorem hopField_append : hopField (hop ++ zone ++ res ++ arg) = hop := by
  refine BitVec.eq_of_toNat_eq ?_
  have := hop.isLt; have := zone.isLt; have := res.isLt; have := arg.isLt
  simp only [hopField, BitVec.extractLsb'_toNat, toNat_append_add, Nat.shiftRight_eq_div_pow]
  omega

@[simp] theorem zoneField_append : zoneField (hop ++ zone ++ res ++ arg) = zone := by
  refine BitVec.eq_of_toNat_eq ?_
  have := zone.isLt; have := res.isLt; have := arg.isLt
  simp only [zoneField, BitVec.extractLsb'_toNat, toNat_append_add, Nat.shiftRight_eq_div_pow]
  omega

@[simp] theorem argField_append : argField (hop ++ zone ++ res ++ arg) = arg := by
  refine BitVec.eq_of_toNat_eq ?_
  have := arg.isLt
  simp only [argField, BitVec.extractLsb'_toNat, toNat_append_add, Nat.shiftRight_eq_div_pow]
  omega

@[simp] theorem byteField_append : byteField (hop ++ zone ++ res ++ arg) = BitVec.ofNat 8 arg.toNat := by
  rw [byteField_eq, argField_append]; rfl

@[simp] theorem flagField_append : flagField (hop ++ zone ++ res ++ arg) = decide (arg.toNat % 2 = 1) := by
  rw [flagField_eq, argField_append, BitVec.getLsbD, Nat.testBit_zero]

end

/-! ### Masks -/

section
variable (w : Word)

/-- A host word is its four fields side by side (30_encoding.md R100). -/
theorem word_eq_fields : hopField w ++ zoneField w ++ w.extractLsb' 16 8 ++ argField w = w := by
  refine BitVec.eq_of_toNat_eq ?_
  have := w.isLt
  simp only [hopField, zoneField, argField, BitVec.extractLsb'_toNat, toNat_append_add, Nat.shiftRight_eq_div_pow]
  omega

/-- A mask that keeps HOP and clears the reserved byte masks ZONE and ARG. -/
theorem and_mask (zm : BitVec 4) (am : BitVec 16) :
    w &&& (0xF#4 ++ zm ++ 0#8 ++ am) = hostWord (hopField w) (zoneField w &&& zm) (argField w &&& am) := by
  have hhop : hopField w &&& 0xF#4 = hopField w := BitVec.and_allOnes
  calc w &&& (0xF#4 ++ zm ++ 0#8 ++ am)
      = (hopField w ++ zoneField w ++ w.extractLsb' 16 8 ++ argField w) &&& (0xF#4 ++ zm ++ 0#8 ++ am) := by
        rw [word_eq_fields]
    _ = hostWord (hopField w) (zoneField w &&& zm) (argField w &&& am) := by
        simp only [BitVec.and_append, hhop, BitVec.and_zero, hostWord]

theorem zoneField_and_ones : zoneField w &&& 0xF#4 = zoneField w := BitVec.and_allOnes

theorem argField_and_ones : argField w &&& 0xFFFF#16 = argField w := BitVec.and_allOnes

/-- The low byte of ARG, as the encoder writes PUSH_BYTE's operand. -/
theorem argField_and_byte : argField w &&& 0xFF#16 = (byteField w).setWidth 16 := by
  refine BitVec.eq_of_toNat_eq ?_
  have hmask : (argField w).toNat &&& 255 = (argField w).toNat % 256 := Nat.and_two_pow_sub_one_eq_mod _ 8
  rw [byteField_eq, BitVec.toNat_and, BitVec.toNat_setWidth, BitVec.toNat_setWidth]
  exact hmask.trans (by omega)

/-- The low bit of ARG, as the encoder writes a flag. -/
theorem argField_and_flag : argField w &&& 1#16 = flagArg (flagField w) := by
  rw [flagField_eq]; exact BitVec.and_one_eq_setWidth_ofBool_getLsbD

variable {w} {hop : BitVec 4} (h : hopField w = hop)
include h

/-- The word of an operation without operand: of a word with its HOP, only HOP is left. -/
theorem hostWord_hop : hostWord hop 0 0 = w &&& 0xF0000000#32 := by
  simpa [h] using (and_mask w 0#4 0#16).symm

/-- The word of an operation on a zone keeps ZONE. -/
theorem hostWord_zone : hostWord hop (zoneField w) 0 = w &&& 0xFF000000#32 := by
  simpa [h, zoneField_and_ones] using (and_mask w 0xF#4 0#16).symm

/-- The word of PUSH_BYTE keeps its byte. -/
theorem hostWord_byte : hostWord hop 0 ((byteField w).setWidth 16) = w &&& 0xF00000FF#32 := by
  simpa [h, argField_and_byte] using (and_mask w 0#4 0xFF#16).symm

/-- The word of PAUSE keeps its flag. -/
theorem hostWord_flag : hostWord hop 0 (flagArg (flagField w)) = w &&& 0xF0000001#32 := by
  simpa [h, argField_and_flag] using (and_mask w 0#4 1#16).symm

/-- The word of SET_ENABLE keeps ZONE and its flag. -/
theorem hostWord_zone_flag : hostWord hop (zoneField w) (flagArg (flagField w)) = w &&& 0xFF000001#32 := by
  simpa [h, zoneField_and_ones, argField_and_flag] using (and_mask w 0xF#4 1#16).symm

/-- The word of SET_TARGET keeps ZONE and the whole ARG. -/
theorem hostWord_zone_arg : hostWord hop (zoneField w) (argField w) = w &&& 0xFF00FFFF#32 := by
  simpa [h, zoneField_and_ones, argField_and_ones] using (and_mask w 0xF#4 0xFFFF#16).symm

end

/-! ### Encoding and decoding -/

/-- A host operation's word decodes to it (30_encoding.md R100 to R102). -/
theorem decodeHost_of_encode {o : Opcodes} {i : Instr} {w : Word} (h : encode o i = .host w) : decodeHost w = i := by
  cases i with
  | queuePointAbs | setPosition | delay | unknownOpcode => cases h
  | _ => cases h; simp [decodeHost]

/-- The encoding of the operation of a word is the word with the bits that the operation does not read cleared
(30_encoding.md R101): HOP by HOP, what the mask leaves is what the encoder writes. -/
theorem encode_decodeHost (o : Opcodes) (w : Word) :
    encode o (decodeHost w) = .host (w &&& Claims.usedBits (hopField w)) := by
  obtain ⟨k, hk⟩ : ∃ k, (hopField w).toNat = k := ⟨_, rfl⟩
  have hlt : k < 16 := hk ▸ (hopField w).isLt
  have hhop : hopField w = BitVec.ofNat 4 k := by rw [← hk, BitVec.ofNat_toNat, BitVec.setWidth_eq]
  unfold decodeHost Claims.usedBits
  rw [hk]
  obtain rfl | rfl | rfl | rfl | hzone | hnone : k = 1 ∨ k = 4 ∨ k = 7 ∨ k = 9 ∨ (k = 6 ∨ k = 8 ∨ k = 11) ∨
      (k = 0 ∨ k = 2 ∨ k = 3 ∨ k = 5 ∨ k = 10 ∨ k = 12 ∨ k = 13 ∨ k = 14 ∨ k = 15) := by omega
  · exact congrArg Words.host (hostWord_byte hhop)
  · exact congrArg Words.host (hostWord_flag hhop)
  · exact congrArg Words.host (hostWord_zone_arg hhop)
  · exact congrArg Words.host (hostWord_zone_flag hhop)
  · rcases hzone with rfl | rfl | rfl <;> exact congrArg Words.host (hostWord_zone hhop)
  · rcases hnone with rfl | rfl | rfl | rfl | rfl | rfl | rfl | rfl | rfl <;>
      exact congrArg Words.host (hostWord_hop hhop)

end Sys2Proof

namespace Sys2Proof.Claims

/-- Settles O3: the fields read back from the word, whatever the reserved byte holds, and HOP names the operation. -/
theorem hostWordsDecodeByTheirFields : Obligations.HostWordsDecodeByTheirFields := by
  intro z res a
  simp only [decodeHost, hopField_append, zoneField_append, argField_append, byteField_append, flagField_append]
  simp

/-- Settles O2: the encoding is the masked word; so the masked word is the word of the operation, and decodes to it. -/
theorem hostWordIsItsUsedBits : Obligations.HostWordIsItsUsedBits :=
  fun o w => ⟨encode_decodeHost o w, decodeHost_of_encode (encode_decodeHost o w)⟩

end Sys2Proof.Claims
end

section
/-! PROOFS. A whole wire command at the head of a byte string: the opcode byte decides its length, and its fields are
read from its own bytes (30_encoding.md R110 to R113, 43_wire_commands.md R244, R245). -/

namespace Sys2Proof

open Claims (isWire)

section
variable (o : Opcodes) (op : Byte)

/-- Every command has its opcode byte. -/
theorem wireLength_pos : 0 < wireLength o op := by
  unfold wireLength; split_ifs <;> decide

/-- The longest command is the move, of 17 bytes (30_encoding.md R110). -/
theorem wireLength_le : wireLength o op ≤ 17 := by
  unfold wireLength; split_ifs <;> decide

/-- A byte string decodes to a wire command, never to a host operation. -/
theorem isWire_wireCommand (bs : List Byte) : isWire (wireCommand o op bs) = true := by
  rcases wireCommand_cases o op bs with ⟨-, -, e⟩ | ⟨-, -, -, e⟩ | ⟨-, -, -, -, e⟩ | ⟨-, -, e⟩ <;> rw [e] <;> rfl

/-- A command is read from its own bytes: what stands behind them does not matter. -/
theorem wireCommand_append {bs : List Byte} (h : wireLength o op ≤ bs.length) (behind : List Byte) :
    wireCommand o op (bs ++ behind) = wireCommand o op bs := by
  unfold wireLength at h
  unfold wireCommand
  split_ifs at h ⊢
  · rw [field32_append, field32_append, field32_append, field32_append] <;> omega
  · rw [field32_append, field32_append, field32_append] <;> omega
  · rw [field32_append]; omega
  · rfl

end

section
variable {o : Opcodes} {op : Byte} {payload : List Byte}

/-- Fewer bytes than the opcode's length are incomplete (43_wire_commands.md R244). -/
theorem decodeWire_incomplete (h : (op :: payload).length < wireLength o op) :
    decodeWire o (op :: payload) = .rejected .incomplete := if_pos h

/-- The bytes of one whole command decode to it, and what follows them is left over (43_wire_commands.md R245). -/
theorem decodeWire_whole (h : (op :: payload).length = wireLength o op) (behind : List Byte) :
    decodeWire o (op :: payload ++ behind) = .instr (wireCommand o op (op :: payload)) behind := by
  have hlen : ¬ (op :: payload ++ behind).length < wireLength o op := by
    rw [List.length_append, h]; omega
  calc decodeWire o (op :: payload ++ behind)
      = .instr (wireCommand o op (op :: payload ++ behind)) ((op :: payload ++ behind).drop (wireLength o op)) :=
        if_neg hlen
    _ = .instr (wireCommand o op (op :: payload)) behind := by
        rw [wireCommand_append o op h.ge, List.drop_left' h]

/-- The encoding of a well-formed wire command is the bytes of one whole command, and they stand for it
(30_encoding.md R110 to R113). -/
theorem wireCommand_of_encode {i : Instr} {bs : List Byte} (hd : o.distinct = true) (hw : i.wellFormed o = true)
    (h : encode o i = .wire bs) :
    ∃ op payload, bs = op :: payload ∧ bs.length = wireLength o op ∧ wireCommand o op bs = i := by
  obtain ⟨hqs, hqd, hsd⟩ := o.distinct_iff.1 hd
  cases i with
  | queuePointAbs x y z r =>
    cases h
    exact ⟨_, _, rfl, by simp [wireLength, fieldBytes], by simp [wireCommand, field32, byteAt, fieldBytes]⟩
  | setPosition x y z =>
    cases h
    exact ⟨_, _, rfl, by simp [wireLength, fieldBytes, hqs.symm],
      by simp [wireCommand, field32, byteAt, fieldBytes, hqs.symm]⟩
  | delay d =>
    cases h
    exact ⟨_, _, rfl, by simp [wireLength, fieldBytes, hqd.symm, hsd.symm],
      by simp [wireCommand, field32, byteAt, fieldBytes, hqd.symm, hsd.symm]⟩
  | unknownOpcode op =>
    cases h
    have hop : (op ≠ o.qpa ∧ op ≠ o.setPos) ∧ op ≠ o.delay := by
      simpa [Instr.wellFormed, Opcodes.recognized] using hw
    exact ⟨_, _, rfl, by simp [wireLength, hop], by simp [wireCommand, hop]⟩
  | _ => cases h

/-- The encoding of a well-formed wire command decodes to it, with whatever follows it left over. -/
theorem decodeWire_of_encode {i : Instr} {bs : List Byte} (hd : o.distinct = true) (hw : i.wellFormed o = true)
    (h : encode o i = .wire bs) (rest : List Byte) : decodeWire o (bs ++ rest) = .instr i rest := by
  obtain ⟨op, payload, rfl, hlen, rfl⟩ := wireCommand_of_encode hd hw h
  exact decodeWire_whole hlen rest

end

/-- The bytes of a field are its digits to the base 256, least significant first (30_encoding.md R111). -/
theorem fieldBytes_eq_digits (v : Word) : fieldBytes v =
    [BitVec.ofNat 8 v.toNat, BitVec.ofNat 8 (v.toNat / 256), BitVec.ofNat 8 (v.toNat / 65536),
     BitVec.ofNat 8 (v.toNat / 16777216)] := by
  simp only [fieldBytes, BitVec.extractLsb', Nat.shiftRight_eq_div_pow]
  norm_num

end Sys2Proof

namespace Sys2Proof.Claims

/-- Settles O1: a host operation's fields read back from its word; a wire command's encoding is one whole command, of
the length that its opcode byte decides. -/
theorem decodeOfEncodeIsTheInstruction : Obligations.DecodeOfEncodeIsTheInstruction := by
  intro o i hd hw
  refine ⟨?_, fun bs rest h => decodeWire_of_encode hd hw h rest⟩
  cases h : encode o i with
  | host w => rw [decode, decodeHost_of_encode h]
  | wire bs => rw [decode, ← List.append_nil bs]; exact decodeWire_of_encode hd hw h []

/-- Settles O4: the bytes up to the opcode's length are one whole command. -/
theorem wireDecodingReadsOneWholeCommand : Obligations.WireDecodingReadsOneWholeCommand := by
  intro o op payload
  refine ⟨decodeWire_incomplete, fun hle => ?_⟩
  obtain ⟨n, hn⟩ : ∃ n, wireLength o op = n + 1 := Nat.exists_eq_add_one.2 (wireLength_pos o op)
  have hwhole : (op :: payload.take n).length = wireLength o op := by
    rw [hn] at hle ⊢
    simpa using hle
  refine ⟨wireCommand o op (op :: payload.take n), isWire_wireCommand o op _, fun behind => ?_⟩
  rw [hn, List.take_succ_cons]
  exact decodeWire_whole hwhole behind

/-- Settles O5: the bytes given are the encoding of the command with these fields, which decodes to it. -/
theorem wireFieldsAreLittleEndian : Obligations.WireFieldsAreLittleEndian := by
  intro o hd x y z r rest
  simp only [← fieldBytes_eq_digits]
  exact ⟨decodeWire_of_encode (i := .queuePointAbs x y z r) hd rfl rfl rest,
    decodeWire_of_encode (i := .setPosition x y z) hd rfl rfl rest,
    decodeWire_of_encode (i := .delay x) hd rfl rfl rest⟩

end Sys2Proof.Claims
end

section
/-! PROOFS. Sending a command: the pushed bytes are the queue, and the next slice performs the command that they decode
to and leaves the bytes behind it (30_encoding.md R116, 20_memory.md R83, R84, 42_dispatcher.md R201, R205). -/

namespace Sys2Proof.Machine

open Claims (isWire issue withDstat)
open Laws.EncodedLength (lengthBytes)

/-! ### A wire command on its bytes -/

section
variable {s : State} {i : Instr}

/-- A wire command as an instruction of its own is what the decoder's caller performs. -/
theorem exec_of_isWire (hi : isWire i = true) (s : State) : exec i s = .next (performWire i s) := by
  cases i with
  | queuePointAbs | setPosition | delay | unknownOpcode => rfl
  | _ => cases hi

/-- The decoder gives each opcode's command its own length. -/
theorem lengthBytes_wireCommand (o : Opcodes) (op : Byte) (bs : List Byte) :
    lengthBytes (wireCommand o op bs) = wireLength o op := by
  rcases wireCommand_cases o op bs with ⟨-, hlen, e⟩ | ⟨-, -, hlen, e⟩ | ⟨-, -, -, hlen, e⟩ | ⟨-, hlen, e⟩ <;>
    rw [e, hlen] <;> rfl

/-- A dispatch with all its bytes there pops them, if what is performed leaves the queue alone. -/
theorem queueWindow_dispatch {n : Nat} {f : State → State} (hn : n ≤ s.qlen.toNat) (h0 : 0 < s.cfg.qCap)
    (hq : s.cfg.qCap ≤ 65535) (hf : queueWindow (f (queuePop n s)) = queueWindow (queuePop n s)) :
    queueWindow (dispatch n f s) = (queueWindow s).drop n := by
  rcases dispatch_cases n f s with ⟨hlt, -⟩ | ⟨-, e⟩
  · omega
  · rw [e, ← queueWindow_pop s n hn h0 hq, ← hf]
    exact queueWindow_congr rfl rfl rfl rfl

/-- A wire command whose bytes are there pops exactly them (43_wire_commands.md R248). -/
theorem queueWindow_performWire (hi : isWire i = true) (hn : lengthBytes i ≤ s.qlen.toNat) (h0 : 0 < s.cfg.qCap)
    (hq : s.cfg.qCap ≤ 65535) : queueWindow (performWire i s) = (queueWindow s).drop (lengthBytes i) := by
  cases i with
  | queuePointAbs | setPosition | delay =>
    exact queueWindow_dispatch hn h0 hq (queueWindow_congr rfl rfl rfl rfl)
  | unknownOpcode op =>
    have hone : 1 ≤ s.qlen.toNat := hn
    rcases unknownOpcode_cases op s with ⟨hzero, -⟩ | ⟨-, e⟩
    · omega
    · calc queueWindow (unknownOpcode op s)
          = queueWindow (queuePop 1 s) := by rw [e]; exact queueWindow_congr rfl rfl rfl rfl
        _ = (queueWindow s).drop 1 := queueWindow_pop s 1 hn h0 hq
  | _ => cases hi

/-! ### The slice that decodes it -/

/-- What decodes from the queue is a wire command, and performing it leaves the bytes behind it. -/
theorem queueWindow_performWire_of_decodeWire {o : Opcodes} {rest : List Byte} (h0 : 0 < s.cfg.qCap)
    (hq : s.cfg.qCap ≤ 65535) (hd : decodeWire o (queueWindow s) = .instr i rest) :
    isWire i = true ∧ queueWindow (performWire i s) = rest := by
  rcases decodeWire_cases o (queueWindow s) with ⟨-, e⟩ | ⟨op, payload, -, ⟨-, e⟩ | ⟨hle, e⟩⟩
  · rw [e] at hd; cases hd
  · rw [e] at hd; cases hd
  · rw [e] at hd
    cases hd
    have hi := isWire_wireCommand o op (queueWindow s)
    rw [queueWindow_length, ← lengthBytes_wireCommand o op (queueWindow s)] at hle
    rw [queueWindow_performWire hi hle h0 hq, lengthBytes_wireCommand]
    exact ⟨hi, rfl⟩

/-- In READY and without a protocol fault a slice performs what the queue decodes to (42_dispatcher.md R205). -/
theorem slice_of_decodeWire {rest : List Byte} (hm : s.mode = .ready) (hp : s.pfault = false)
    (hd : decodeWire s.cfg.opc (queueWindow s) = .instr i rest) : slice s = performWire i s := by
  have hready : completeDelay (completeMove s) = s := by simp [completeMove, completeDelay, hm]
  have hlen : 1 ≤ s.qlen.toNat := by
    by_contra h
    have hnil : queueWindow s = [] := List.eq_nil_of_length_eq_zero (by rw [queueWindow_length]; omega)
    rw [hnil] at hd; cases hd
  rw [slice, hready, decodeStep, if_pos ⟨hm, hp, hlen⟩, decodeHead, hd]

/-- An unpaused RUN_SLICE is the slice with DSTAT as the response (42_dispatcher.md R202). -/
theorem exec_runSlice_of_not_paused (h : s.paused = false) : exec .runSlice s = .next (withDstat (slice s)) := by
  rcases runSlice_cases s with ⟨hp, -⟩ | ⟨-, e⟩
  · rw [hp] at h; cases h
  · exact congrArg Host.Outcome.next e

end

/-! ### Pushing bytes -/

/-- The host word of PUSH_BYTE (30_encoding.md R116). -/
def pushWord (b : Byte) : Word := hostWord 0x1 0 (b.setWidth 16)

/-- A wire command is encoded as bytes of the queue. -/
theorem encode_of_isWire (o : Opcodes) {i : Instr} (hi : isWire i = true) : ∃ bs, encode o i = .wire bs := by
  cases i with
  | queuePointAbs | setPosition | delay | unknownOpcode => exact ⟨_, rfl⟩
  | _ => cases hi

/-- SEND of a wire command is one PUSH_BYTE for each of its bytes. -/
theorem send_of_encode {o : Opcodes} {i : Instr} {bs : List Byte} (h : encode o i = .wire bs) :
    send o i = bs.map pushWord := by
  rw [send, h]; rfl

/-- The state after PUSH_BYTE on a queue with room (42_dispatcher.md R201). -/
def pushed (b : Byte) (s : State) : State := respond (pushResponse (queuePush b s) true) (queuePush b s)

section
variable {s : State} (b : Byte) (h : s.qlen.toNat < s.cfg.qCap)
include h

/-- Issuing PUSH_BYTE on a queue with room goes on from the pushed byte. -/
theorem issue_pushWord (ws : List Word) : issue (pushWord b :: ws) s = issue ws (pushed b s) := by
  have hdec : decodeHost (pushWord b) = .pushByte b := decodeHost_of_encode (o := s.cfg.opc) rfl
  rcases pushByte_cases b s with ⟨-, e⟩ | ⟨hfull, -⟩
  · rw [issue, hdec, pushed, ← e]; rfl
  · omega

variable (hq : s.cfg.qCap ≤ 65535)
include hq

/-- The queue is one byte longer. -/
theorem pushed_qlen : (pushed b s).qlen.toNat = s.qlen.toNat + 1 := by
  have hone : (1 : BitVec 16).toNat = 1 := rfl
  simp only [pushed, respond_qlen, queuePush_qlen, BitVec.toNat_add, hone]
  omega

/-- The byte stands at the end of the queue. -/
theorem queueWindow_pushed : queueWindow (pushed b s) = queueWindow s ++ [b] :=
  (queueWindow_congr rfl rfl rfl rfl).trans (queueWindow_push s b h hq)

end

/-- Pushing bytes that fit appends them to the queue, and changes nothing else but the response. -/
theorem issue_pushWords (bs : List Byte) (s : State) (hfit : s.qlen.toNat + bs.length ≤ s.cfg.qCap)
    (hq : s.cfg.qCap ≤ 65535) :
    ∃ t, issue (bs.map pushWord) s = some t ∧ queueWindow t = queueWindow s ++ bs ∧
      t = { s with qmem := t.qmem, qlen := t.qlen, response := t.response } := by
  induction bs generalizing s with
  | nil => exact ⟨s, rfl, (List.append_nil _).symm, rfl⟩
  | cons b bs ih =>
    rw [List.length_cons] at hfit
    have hroom : s.qlen.toNat < s.cfg.qCap := by omega
    have hrest : (pushed b s).qlen.toNat + bs.length ≤ s.cfg.qCap := by
      rw [pushed_qlen b hroom hq]; omega
    obtain ⟨t, hissue, hwin, ht⟩ := ih (pushed b s) hrest hq
    refine ⟨t, (issue_pushWord b hroom _).trans hissue, ?_, ht⟩
    rw [hwin, queueWindow_pushed b hroom hq, List.append_assoc]; rfl

end Sys2Proof.Machine

namespace Sys2Proof.Claims

open Machine

/-- Settles O31: the pushes leave the encoding as the whole queue, which decodes to the command with nothing behind
it; so the slice performs the command and leaves no byte. -/
theorem sendThenSliceRunsTheCommand : Obligations.SendThenSliceRunsTheCommand := by
  intro s i hlegal hi hw hempty hmode hpaused hpfault
  obtain ⟨-, -, -, -, -, -, -, -, -, -, ⟨hcap17, hcap⟩, hopc, -⟩ := legalConfig_spec hlegal
  obtain ⟨bs, hbs⟩ := encode_of_isWire s.cfg.opc hi
  obtain ⟨op, payload, -, hlen, -⟩ := wireCommand_of_encode hopc hw hbs
  have hle := wireLength_le s.cfg.opc op
  have hnil : queueWindow s = [] := by simp [queueWindow, hempty]
  obtain ⟨t, hissue, hwin, ht⟩ := issue_pushWords bs s (by rw [hempty, hlen]; simp; omega) hcap
  rw [hnil, List.nil_append] at hwin
  have hcfg : t.cfg = s.cfg := by rw [ht]
  have hdec : decodeWire t.cfg.opc (queueWindow t) = .instr i [] := by
    rw [hcfg, hwin, ← List.append_nil bs]; exact decodeWire_of_encode hopc hw hbs []
  have hslice : slice t = performWire i t :=
    slice_of_decodeWire (by rw [ht]; exact hmode) (by rw [ht]; exact hpfault) hdec
  obtain ⟨-, hrest⟩ := queueWindow_performWire_of_decodeWire (by rw [hcfg]; omega) (by rw [hcfg]; exact hcap) hdec
  refine ⟨t, performWire i t, ?_, ?_, exec_of_isWire hi t, ?_, hrest, ht⟩
  · rw [send_of_encode hbs]; exact hissue
  · rw [hwin]; exact hbs
  · rw [← hslice]; exact exec_runSlice_of_not_paused (by rw [ht]; exact hpaused)

end Sys2Proof.Claims
end

section
/-! PROOFS. The host words that only respond: the reserved codes, and the operations on a zone that the block does not
have (30_encoding.md R103). -/

namespace Sys2Proof

/-- The codes 0xC to 0xF are the four reserved words (30_encoding.md R103). -/
theorem decodeHost_of_reserved {w : Word} (h : 0xC ≤ (hopField w).toNat) :
    decodeHost w = .reservedC ∨ decodeHost w = .reservedD ∨ decodeHost w = .reservedE ∨ decodeHost w = .reservedF := by
  have hlt := (hopField w).isLt
  obtain hk | hk | hk | hk : (hopField w).toNat = 12 ∨ (hopField w).toNat = 13 ∨ (hopField w).toNat = 14 ∨
      (hopField w).toNat = 15 := by omega
  · exact .inl (by simp only [decodeHost, hk])
  · exact .inr (.inl (by simp only [decodeHost, hk]))
  · exact .inr (.inr (.inl (by simp only [decodeHost, hk])))
  · exact .inr (.inr (.inr (by simp only [decodeHost, hk])))

namespace Machine

open Claims (zoneOf)

/-- A zone operation without its zone only responds 0. -/
theorem zoneOp_of_absent {s : State} {z : ZoneNum} (h : zoneUnit s z = none)
    (f : ZoneParams → Zone → State → State) : zoneOp z f s = respond 0 s := by
  rw [zoneOp, h]

/-- Every instruction that names an absent zone only responds 0. -/
theorem exec_of_absent_zone {i : Instr} {s : State} {z : ZoneNum} (hi : zoneOf i = some z)
    (h : zoneUnit s z = none) : exec i s = .next (respond 0 s) := by
  cases i with
  | manageTemperature | setTarget | hasReached | setEnable | readZstat =>
    cases hi
    exact congrArg Host.Outcome.next (zoneOp_of_absent h _)
  | _ => cases hi

end Machine

end Sys2Proof

namespace Sys2Proof.Claims

open Machine

/-- Settles O40: a reserved code is one of the four reserved words, an absent zone stops its operation at the zone
check, and every instruction completes. -/
theorem reservedAndAbsentZoneWordsOnlyRespond : Obligations.ReservedAndAbsentZoneWordsOnlyRespond := by
  intro s w
  refine ⟨fun hres => ?_, fun z hz habsent => exec_of_absent_zone hz (zoneUnit_none_of_ge habsent),
    exec_next (decodeHost w) s⟩
  rcases decodeHost_of_reserved hres with e | e | e | e <;> rw [e] <;> exact ⟨rfl, Instr.noConfusion⟩

end Sys2Proof.Claims
end

section
/-! PROOFS. The temperature maps: the thermistor table's clamps, brackets and breakpoints, and the thermocouple's scale
(40_sampler.md R139 to R142). -/

namespace Sys2Proof.Machine

open Claims

/-! ### Clamping to 16 bits -/

/-- `clamp16` as the lattice operations, the bounds first. -/
theorem clamp16_eq_max_min (v : Int) : clamp16 v = max (-32768) (min 32767 v) := by
  rw [clamp16, clamp_eq_max_min v _ _ (by decide), min_comm]

/-- Clamping keeps the order. -/
theorem clamp16_mono {v w : Int} (h : v ≤ w) : clamp16 v ≤ clamp16 w := by
  rw [clamp16_eq_max_min, clamp16_eq_max_min]
  exact max_le_max_left _ (min_le_min_left _ h)

/-! ### Interpolation between two breakpoints -/

/-- The guard: a degenerate bracket answers its floor temperature. -/
theorem interpolate_of_degenerate {lo hi : Breakpoint} (h : hi.raw.toNat ≤ lo.raw.toNat) (a : Nat) :
    interpolate lo hi a = lo.temp.toInt := if_pos h

/-- Past the guard the linear interpolation, clamped. -/
theorem interpolate_of_lt {lo hi : Breakpoint} (h : lo.raw.toNat < hi.raw.toNat) (a : Nat) :
    interpolate lo hi a = clamp16 (lo.temp.toInt +
      tdiv (((a : Int) - lo.raw.toNat) * (hi.temp.toInt - lo.temp.toInt)) ((hi.raw.toNat : Int) - lo.raw.toNat)) :=
  if_neg (Nat.not_le.2 h)

/-- On its own bracket the interpolation stays between two 16-bit temperatures, so the clamp does not act. -/
theorem interpolate_of_mem {lo hi : Breakpoint} {a : Nat} (hlo : lo.raw.toNat ≤ a) (hhi : a < hi.raw.toNat) :
    interpolate lo hi a = lo.temp.toInt +
      tdiv (((a : Int) - lo.raw.toNat) * (hi.temp.toInt - lo.temp.toInt))
        ((hi.raw.toNat : Int) - lo.raw.toNat) := by
  obtain ⟨hrise, hfall⟩ := interpolation_between (ta := lo.temp.toInt) (tb := hi.temp.toInt)
    ((a : Int) - lo.raw.toNat) ((hi.raw.toNat : Int) - lo.raw.toNat) (by omega) (by omega) (by omega)
  have hta := temp_range lo.temp
  have htb := temp_range hi.temp
  rw [interpolate_of_lt (by omega)]
  rcases le_total lo.temp.toInt hi.temp.toInt with h | h
  · obtain ⟨hge, hle⟩ := hrise h
    exact clamp16_of_range (by omega) (by omega)
  · obtain ⟨hge, hle⟩ := hfall h
    exact clamp16_of_range (by omega) (by omega)

/-! ### Any table -/

section
variable {c : Config} {t : Calibration} {ofs a : Nat}

/-- The clamp at the first breakpoint. -/
theorem thermistorT_of_le_first (h : a ≤ rawAt t ofs 0) : thermistorT c t ofs a = tempAt t ofs 0 := if_pos h

/-- The clamp at the last breakpoint, which the first one's precedes (log 19). -/
theorem thermistorT_of_last_le (h0 : rawAt t ofs 0 < a) (h : rawAt t ofs (c.tblN - 1) ≤ a) :
    thermistorT c t ofs a = tempAt t ofs (c.tblN - 1) :=
  (if_neg (Nat.not_le.2 h0)).trans (if_pos h)

/-- Between the clamps the map is the interpolation in the indexed bracket. -/
theorem thermistorT_of_inner (h0 : rawAt t ofs 0 < a) (h : a < rawAt t ofs (c.tblN - 1)) :
    thermistorT c t ofs a =
      interpolate (tableEntry t ofs (bracketIndex c t ofs a)) (tableEntry t ofs (bracketIndex c t ofs a + 1)) a :=
  (if_neg (Nat.not_le.2 h0)).trans (if_neg (Nat.not_le.2 h))

/-- The bracket index as a quotient of naturals. -/
theorem bracketIndex_eq (h : rawAt t ofs 0 ≤ a) :
    bracketIndex c t ofs a = min ((a - rawAt t ofs 0) / c.tblSpacing) (c.tblN - 2) := by
  have hcast : (a : Int) - (tableEntry t ofs 0).raw.toNat = (a - rawAt t ofs 0 : Nat) := (Int.ofNat_sub h).symm
  rw [bracketIndex, hcast, fdiv, Int.fdiv_eq_ediv_of_nonneg _ (by omega)]
  norm_cast

/-- The bracket of any average lies in the table. -/
theorem bracketIndex_succ_lt (h : 2 ≤ c.tblN) (t : Calibration) (ofs a : Nat) :
    bracketIndex c t ofs a + 1 < c.tblN := by
  have := Nat.min_le_right (fdiv ((a : Int) - (tableEntry t ofs 0).raw.toNat) c.tblSpacing).toNat (c.tblN - 2)
  unfold bracketIndex
  omega

/-- The map reads only the entries of the table: one that agrees with it there answers the same. -/
theorem thermistorT_congr {t' : Calibration} (h2 : 2 ≤ c.tblN)
    (h : ∀ i, i < c.tblN → tableEntry t' ofs i = tableEntry t ofs i) :
    thermistorT c t' ofs a = thermistorT c t ofs a := by
  have hfirst := h 0 (by omega)
  have hlast := h (c.tblN - 1) (by omega)
  have hindex : bracketIndex c t' ofs a = bracketIndex c t ofs a := by rw [bracketIndex, bracketIndex, hfirst]
  have hbracket := bracketIndex_succ_lt h2 t ofs a
  have hlo := h (bracketIndex c t ofs a) (by omega)
  have hhi := h (bracketIndex c t ofs a + 1) hbracket
  rw [thermistorT, hfirst, hlast, hindex, hlo, hhi, thermistorT]

end

/-! ### Well-formed tables (40_sampler.md R142) -/

/-- The line through the breakpoints `i` and `i + 1` of an evenly spaced table, truncated. -/
def bracketLine (c : Config) (t : Calibration) (ofs i a : Nat) : Int :=
  tempAt t ofs i + tdiv (((a : Int) - rawAt t ofs i) * (tempAt t ofs (i + 1) - tempAt t ofs i)) c.tblSpacing

section
variable {c : Config} {t : Calibration} {ofs i a : Nat}

/-- A bracket's line starts at its floor temperature. -/
theorem bracketLine_left : bracketLine c t ofs i (rawAt t ofs i) = tempAt t ofs i := by
  simp [bracketLine, tdiv]

/-- On the line of a bracket whose temperatures do not fall, a larger average does not answer a lower temperature. -/
theorem bracketLine_mono (hd : 1 ≤ c.tblSpacing) (h : tempAt t ofs i ≤ tempAt t ofs (i + 1)) :
    bracketLine c t ofs i a ≤ bracketLine c t ofs i (a + 1) := by
  refine Int.add_le_add_left (tdiv_mono (by omega) (mul_le_mul_of_nonneg_right ?_ (by omega))) _
  omega

/-- On the line of a bracket whose temperatures do not rise, a larger average does not answer a higher temperature. -/
theorem bracketLine_anti (hd : 1 ≤ c.tblSpacing) (h : tempAt t ofs (i + 1) ≤ tempAt t ofs i) :
    bracketLine c t ofs i (a + 1) ≤ bracketLine c t ofs i a := by
  refine Int.add_le_add_left (tdiv_mono (by omega) (mul_le_mul_of_nonpos_right ?_ (by omega))) _
  omega

variable (hwf : WellFormedTable c t ofs)
include hwf

/-- Neighbouring breakpoints are one spacing apart. -/
theorem rawAt_succ (hi : i + 1 < c.tblN) : rawAt t ofs (i + 1) = rawAt t ofs i + c.tblSpacing := by
  obtain ⟨-, -, hraw⟩ := hwf
  rw [hraw (i + 1) hi, hraw i (by omega), Nat.succ_mul, Nat.add_assoc]

/-- A bracket is one spacing wide, as the interpolation's divisor has it. -/
theorem bracket_width (hi : i + 1 < c.tblN) : (rawAt t ofs (i + 1) : Int) - rawAt t ofs i = c.tblSpacing := by
  rw [rawAt_succ hwf hi]
  omega

/-- A line ends at the next breakpoint's temperature. -/
theorem bracketLine_right (hi : i + 1 < c.tblN) :
    bracketLine c t ofs i (rawAt t ofs (i + 1)) = tempAt t ofs (i + 1) := by
  obtain ⟨-, hd, -⟩ := id hwf
  rw [bracketLine, bracket_width hwf hi, tdiv, Int.mul_tdiv_cancel_left _ (by omega)]
  omega

/-- The quotient by the spacing is the index of the bracket that holds the average. -/
theorem quotient_eq_iff (hi : i + 1 < c.tblN) (ha : rawAt t ofs 0 ≤ a) :
    (a - rawAt t ofs 0) / c.tblSpacing = i ↔ rawAt t ofs i ≤ a ∧ a < rawAt t ofs (i + 1) := by
  have hnext := rawAt_succ hwf hi
  obtain ⟨-, hd, hraw⟩ := hwf
  have hfloor := hraw i (by omega)
  rw [Nat.div_eq_iff (by omega)]
  omega

/-- Every average from the first breakpoint up to the last has a bracket. -/
theorem exists_bracket (h0 : rawAt t ofs 0 ≤ a) (h : a < rawAt t ofs (c.tblN - 1)) :
    ∃ i, i = (a - rawAt t ofs 0) / c.tblSpacing ∧ i + 1 < c.tblN ∧ rawAt t ofs i ≤ a ∧ a < rawAt t ofs (i + 1) := by
  have hi : (a - rawAt t ofs 0) / c.tblSpacing + 1 < c.tblN := by
    obtain ⟨h2, hd, hraw⟩ := hwf
    rw [hraw (c.tblN - 1) (by omega)] at h
    have : (a - rawAt t ofs 0) / c.tblSpacing < c.tblN - 1 := (Nat.div_lt_iff_lt_mul hd).2 (by omega)
    omega
  exact ⟨_, rfl, hi, (quotient_eq_iff hwf hi h0).1 rfl⟩

/-- On a bracket the map is the bracket's line. At the first breakpoint it is the low clamp that answers, with the
temperature the line starts at; above it the O(1) index finds the bracket. -/
theorem thermistorT_of_bracket (hi : i + 1 < c.tblN) (hlo : rawAt t ofs i ≤ a) (hhi : a < rawAt t ofs (i + 1)) :
    thermistorT c t ofs a = bracketLine c t ofs i a := by
  have hfirst : rawAt t ofs 0 ≤ rawAt t ofs i := by
    obtain ⟨-, -, hraw⟩ := hwf
    have := hraw i (by omega)
    omega
  rcases Nat.eq_or_lt_of_le (hfirst.trans hlo) with h0 | h0
  · have hzero : (a - rawAt t ofs 0) / c.tblSpacing = i := (quotient_eq_iff hwf hi h0.le).2 ⟨hlo, hhi⟩
    rw [← h0, Nat.sub_self, Nat.zero_div] at hzero
    subst hzero
    rw [← h0, bracketLine_left]
    exact thermistorT_of_le_first le_rfl
  · have hindex : bracketIndex c t ofs a = i := by
      rw [bracketIndex_eq h0.le, (quotient_eq_iff hwf hi h0.le).2 ⟨hlo, hhi⟩]
      omega
    have hlast : a < rawAt t ofs (c.tblN - 1) := by
      obtain ⟨-, -, hraw⟩ := hwf
      have hle : (i + 1) * c.tblSpacing ≤ (c.tblN - 1) * c.tblSpacing := Nat.mul_le_mul_right _ (by omega)
      rw [hraw (i + 1) hi] at hhi
      rw [hraw (c.tblN - 1) (by omega)]
      omega
    rw [thermistorT_of_inner h0 hlast, hindex, interpolate_of_mem hlo hhi, bracketLine, ← bracket_width hwf hi]
    rfl

/-- The last breakpoint is above the first, so at and above it the high clamp answers. -/
theorem thermistorT_of_last_le_wf (h : rawAt t ofs (c.tblN - 1) ≤ a) :
    thermistorT c t ofs a = tempAt t ofs (c.tblN - 1) := by
  obtain ⟨h2, hd, hraw⟩ := hwf
  have hpos : 0 < (c.tblN - 1) * c.tblSpacing := Nat.mul_pos (by omega) hd
  have hlast := hraw (c.tblN - 1) (by omega)
  exact thermistorT_of_last_le (by omega) h

/-- At every breakpoint the map is the breakpoint's temperature: the last one answers by the high clamp. -/
theorem thermistorT_of_breakpoint (hi : i < c.tblN) : thermistorT c t ofs (rawAt t ofs i) = tempAt t ofs i := by
  by_cases hnext : i + 1 < c.tblN
  · have hrise : rawAt t ofs i < rawAt t ofs (i + 1) := by
      rw [rawAt_succ hwf hnext]
      obtain ⟨-, hd, -⟩ := hwf
      exact Nat.lt_add_of_pos_right hd
    rw [thermistorT_of_bracket hwf hnext le_rfl hrise, bracketLine_left]
  · obtain rfl : i = c.tblN - 1 := by omega
    exact thermistorT_of_last_le_wf hwf le_rfl

/-- The line is the map on the closed bracket, its upper breakpoint included. -/
theorem thermistorT_of_closed_bracket (hi : i + 1 < c.tblN) (hlo : rawAt t ofs i ≤ a)
    (hhi : a ≤ rawAt t ofs (i + 1)) :
    thermistorT c t ofs a = bracketLine c t ofs i a := by
  rcases Nat.lt_or_eq_of_le hhi with h | rfl
  · exact thermistorT_of_bracket hwf hi hlo h
  · rw [thermistorT_of_breakpoint hwf hi, bracketLine_right hwf hi]

/-- Two neighbouring averages: a clamp answers both alike, or they lie on one bracket's line. -/
theorem thermistorT_succ_cases (a : Nat) :
    thermistorT c t ofs (a + 1) = thermistorT c t ofs a ∨
    ∃ i, i + 1 < c.tblN ∧ thermistorT c t ofs a = bracketLine c t ofs i a ∧
      thermistorT c t ofs (a + 1) = bracketLine c t ofs i (a + 1) := by
  rcases Nat.lt_or_ge a (rawAt t ofs 0) with h0 | h0
  · exact .inl ((thermistorT_of_le_first h0).trans (thermistorT_of_le_first h0.le).symm)
  · rcases Nat.lt_or_ge a (rawAt t ofs (c.tblN - 1)) with hlast | hlast
    · obtain ⟨i, -, hi, hlo, hhi⟩ := exists_bracket hwf h0 hlast
      exact .inr ⟨i, hi, thermistorT_of_bracket hwf hi hlo hhi, thermistorT_of_closed_bracket hwf hi (by omega) hhi⟩
    · exact .inl ((thermistorT_of_last_le_wf hwf (by omega)).trans (thermistorT_of_last_le_wf hwf hlast).symm)

/-- Temperatures that do not fall give a map that does not fall. -/
theorem thermistorT_monotone (h : ∀ i, i + 1 < c.tblN → tempAt t ofs i ≤ tempAt t ofs (i + 1)) :
    Monotone (thermistorT c t ofs) := by
  obtain ⟨-, hd, -⟩ := id hwf
  refine monotone_nat_of_le_succ fun a => ?_
  rcases thermistorT_succ_cases hwf a with e | ⟨i, hi, e, esucc⟩
  · exact e.ge
  · rw [e, esucc]; exact bracketLine_mono hd (h i hi)

/-- Temperatures that do not rise give a map that does not rise. -/
theorem thermistorT_antitone (h : ∀ i, i + 1 < c.tblN → tempAt t ofs (i + 1) ≤ tempAt t ofs i) :
    Antitone (thermistorT c t ofs) := by
  obtain ⟨-, hd, -⟩ := id hwf
  refine antitone_nat_of_succ_le fun a => ?_
  rcases thermistorT_succ_cases hwf a with e | ⟨i, hi, e, esucc⟩
  · exact e.le
  · rw [e, esucc]; exact bracketLine_anti hd (h i hi)

end

end Sys2Proof.Machine

namespace Sys2Proof.Claims

open Machine

/-- Settles O50: the thermistor map is the map of a thermistor zone with that table, and every map's answer is a signed
16-bit value. -/
theorem thermistorIsBounded : Obligations.ThermistorIsBounded :=
  fun c t ofs a => mapTemperature_range c t { Config.referenceZone .thermistor .pid with tblOfs := ofs } a

/-- Settles O51: the two clamps, and the map of a table that agrees in its entries. -/
theorem thermistorClampsAndStaysInTheTable : Obligations.ThermistorClampsAndStaysInTheTable :=
  fun _ _ _ _ _ => ⟨thermistorT_of_le_first, thermistorT_of_last_le, thermistorT_congr⟩

/-- Settles O59: between the clamps the map is the interpolation in the indexed bracket, whose guard tells its two
answers apart. -/
theorem anyTableAnswersByItsIndexedBracket : Obligations.AnyTableAnswersByItsIndexedBracket := by
  intro c t ofs a h2 h0 hlast
  have hmap := thermistorT_of_inner h0 hlast
  refine ⟨bracketIndex c t ofs a, bracketIndex_eq h0.le, bracketIndex_succ_lt h2 t ofs a, fun hdeg => ?_, fun hlt => ?_⟩
  · exact hmap.trans (interpolate_of_degenerate hdeg a)
  · exact (hmap.trans (interpolate_of_lt hlt a)).trans (clamp16_eq_max_min _)

/-- Settles O52: the average has a bracket, and on it the map is its line. -/
theorem wellFormedTableInterpolatesInItsBracket : Obligations.WellFormedTableInterpolatesInItsBracket := by
  intro c t ofs a hwf h0 hlast
  obtain ⟨i, hi, hlt, hlo, hhi⟩ := exists_bracket hwf h0.le hlast
  exact ⟨i, hi, hlt, hlo, hhi, thermistorT_of_bracket hwf hlt hlo hhi⟩

/-- Settles O53: the map is monotone from each average to the next, hence between any two. -/
theorem wellFormedTableIsMonotone : Obligations.WellFormedTableIsMonotone :=
  fun _ _ _ _ _ hwf hlt =>
    ⟨fun h => thermistorT_monotone hwf h hlt.le, fun h => thermistorT_antitone hwf h hlt.le⟩

/-- Settles O54: the scale is monotone because truncated division and the clamp are. -/
theorem thermocoupleIsALinearScale : Obligations.ThermocoupleIsALinearScale := by
  intro c a₁ a₂ hden
  refine ⟨clamp16_eq_max_min _, fun hnum hle => clamp16_mono (tdiv_mono (by omega) ?_), ?_⟩
  · exact mul_le_mul_of_nonneg_right (by omega) hnum
  · simp [thermocoupleT, tdiv, clamp16, clamp]

end Sys2Proof.Claims
end

section
/-! PROOFS. The sampling of a firing tick: the ring after one push and after `N_HIST` of them, and the tick that pushes
the mean of its reads (40_sampler.md R131 to R137). -/

namespace Sys2Proof.Machine

/-! ### The ring -/

section
variable {c : Config} {u : Zone}

/-- The next-write index stays inside the ring (40_sampler.md R134). -/
theorem ringPush_hidx_toNat (h1 : 1 ≤ c.nHist) (h16 : c.nHist ≤ 16) (x : Sample) :
    (ringPush c x u).hidx.toNat = (u.hidx.toNat + 1) % c.nHist := by
  have := Nat.mod_lt (u.hidx.toNat + 1) h1
  rw [ringPush_hidx, BitVec.toNat_ofNat]
  omega

/-- The registers of a zone after the samples `xs` were pushed in order. -/
def ringPushes (c : Config) (xs : List Sample) (u : Zone) : Zone := xs.foldl (fun v x => ringPush c x v) u

/-- One more sample is pushed last. -/
theorem ringPushes_append_singleton (xs : List Sample) (x : Sample) :
    ringPushes c (xs ++ [x]) u = ringPush c x (ringPushes c xs u) := by
  simp [ringPushes]

/-- At most `N_HIST` pushes fill the ring from the write index on, each sample behind the one before. -/
theorem ringPushes_spec (h16 : c.nHist ≤ 16) (hlen : u.hist.length = c.nHist) (hidx : u.hidx.toNat < c.nHist)
    (xs : List Sample) (hxs : xs.length ≤ c.nHist) :
    (ringPushes c xs u).hist.length = c.nHist ∧
    (ringPushes c xs u).hidx.toNat = (u.hidx.toNat + xs.length) % c.nHist ∧
    ∀ k, k < xs.length → (ringPushes c xs u).hist[(u.hidx.toNat + k) % c.nHist]? = xs[k]? := by
  induction xs using List.reverseRecOn with
  | nil => exact ⟨hlen, (Nat.mod_eq_of_lt hidx).symm, fun _ hk => absurd hk (Nat.not_lt_zero _)⟩
  | append_singleton xs x ih =>
    rw [List.length_append, List.length_singleton] at hxs ⊢
    obtain ⟨hringLen, hringIdx, hring⟩ := ih (by omega)
    have hlt : (u.hidx.toNat + xs.length) % c.nHist < c.nHist := Nat.mod_lt _ (by omega)
    rw [ringPushes_append_singleton, ringPush_hidx_toNat (by omega) h16, ringPush_hist, hringIdx, Nat.mod_add_mod]
    refine ⟨by rw [List.length_set, hringLen], rfl, fun k hk => ?_⟩
    rcases Nat.lt_succ_iff_lt_or_eq.1 hk with hold | rfl
    · rw [List.getElem?_set_ne (mod_add_ne hold (by omega)).symm, hring k hold, List.getElem?_append_left hold]
    · rw [List.getElem?_set_self (by rw [hringLen]; exact hlt), List.getElem?_concat_length]

/-- A ring that holds the samples `xs` from some index on has their sum. -/
theorem sum_of_ring {hist xs : List Sample} {n i : Nat} (hhist : hist.length = n) (hxs : xs.length = n)
    (h : ∀ k, k < n → hist[(i + k) % n]? = xs[k]?) : (hist.map BitVec.toNat).sum = (xs.map BitVec.toNat).sum := by
  have hrot : hist.rotate i = xs := by
    refine List.ext_getElem? fun k => ?_
    rcases Nat.lt_or_ge k n with hk | hk
    · rw [List.getElem?_rotate (by omega), hhist, Nat.add_comm k i, h k hk]
    · rw [List.getElem?_eq_none (by simpa [hhist] using hk), List.getElem?_eq_none (by omega)]
  rw [← hrot]
  exact ((List.rotate_perm hist i).map _).sum_eq.symm

end

/-! ### The tick -/

/-- The mean of `n` samples fits a sample. -/
theorem sampleRaw_toNat {c : Config} {reads : List Sample} (h : reads.length = c.kReads) :
    (sampleRaw c reads).toNat = (reads.map BitVec.toNat).sum / c.kReads := by
  have hle := meanOver_le c.kReads reads h
  rw [sampleRaw, BitVec.toNat_ofNat, Nat.mod_eq_of_lt (by unfold adcMax at hle; omega), meanOver_eq]

/-- The sensor check as a proposition (40_sampler.md R137). -/
theorem implausible_iff (c : Config) (x : Sample) :
    implausible c x = true ↔ c.sfEn = true ∧ (x.toNat ≤ c.sfLo ∨ c.sfHi ≤ x.toNat) := by
  simp [implausible]

/-- `elapsed` as the spec writes it, on integers. -/
theorem elapsed_cast (now start : Word) :
    (elapsed now start : Int) = ((now.toNat : Int) - start.toNat) % 4294967296 :=
  Int.toNat_of_nonneg (Int.emod_nonneg _ (by decide))

section
variable {s : State} {z : ZoneNum} {p : ZoneParams} {u : Zone}

/-- With as many reads listed as a tick draws, the tick draws them. -/
theorem adcReads_of_length (h : s.inp.adc.length = s.cfg.kReads) : adcReads s = s.inp.adc := by
  refine List.ext_getElem (by simp [adcReads, h]) fun k hk hk' => ?_
  simp [adcReads, hk']

/-- MANAGE_TEMPERATURE of a zone whose interval has passed is the firing tick (41_heater.md R161, R163). -/
theorem exec_manageTemperature_of_elapsed (hz : zoneUnit s z = some (p, u))
    (h : s.cfg.tempInterval ≤ elapsed s.inp.now u.lastTick) :
    exec (.manageTemperature z) s = .next (fireZone z p u s) := by
  have hop : exec (.manageTemperature z) s = .next (manageZone z p u s) := by
    show Host.Outcome.next (zoneOp z _ s) = _
    rw [zoneOp, hz]
  rcases manageZone_cases z p u s with ⟨hlt, -⟩ | ⟨-, e⟩
  · omega
  · rw [hop, e]

/-- The registers that a firing tick leaves in its zone. -/
theorem zoneUnit_fireZone (hz : zoneUnit s z = some (p, u)) :
    zoneUnit (fireZone z p u s) z = some (p, ticked s p u) := by
  obtain ⟨hp, hu⟩ := zoneUnit_eq_some.1 hz
  obtain ⟨hlt, -⟩ := List.getElem?_eq_some_iff.1 hu
  exact zoneUnit_eq_some.2 ⟨hp, List.getElem?_set_self hlt⟩

@[simp] theorem ticked_hist (s : State) (p : ZoneParams) (u : Zone) :
    (ticked s p u).hist = u.hist.set u.hidx.toNat (sampleRaw s.cfg (adcReads s)) := by
  simp [ticked, firingTick]

@[simp] theorem ticked_sfault (s : State) (p : ZoneParams) (u : Zone) :
    (ticked s p u).sfault = (implausible s.cfg (sampleRaw s.cfg (adcReads s)) || u.sfault) := by
  simp [ticked, firingTick]

/-- CUR is the temperature of the mean over the ring that the tick leaves (40_sampler.md R132, R135, R136). -/
theorem ticked_cur (s : State) (p : ZoneParams) (u : Zone) :
    (ticked s p u).cur.toInt = mapTemperature s.cfg s.tmem p (meanOver s.cfg.nHist (ticked s p u).hist) := by
  obtain ⟨hge, hle⟩ := mapTemperature_range s.cfg s.tmem p (meanOver s.cfg.nHist (ticked s p u).hist)
  rw [← toInt_ofInt16 hge hle]
  simp [ticked, firingTick]

end

end Sys2Proof.Machine

namespace Sys2Proof.Claims

open Machine

/-- Settles O55: `N_HIST` pushes fill the ring from the write index on and bring the index back to it; the ring is then
the samples rotated, and has their sum. -/
theorem ringHoldsTheLastSamples : Obligations.RingHoldsTheLastSamples := by
  intro c u xs _ h16 hlen hidx hxs
  obtain ⟨hringLen, hringIdx, hring⟩ := ringPushes_spec h16 hlen hidx xs hxs.le
  rw [hxs] at hringIdx hring
  refine ⟨ringPushes c xs u, rfl, BitVec.eq_of_toNat_eq ?_, hring, ?_⟩
  · rw [hringIdx, Nat.add_mod_right, Nat.mod_eq_of_lt hidx]
  · rw [ringAverage, meanOver_eq, sum_of_ring hringLen hxs hring]

/-- Settles O49: the tick fires, and its sample is the mean of the reads that the transaction lists; the zone's new
registers are then the sampling step's. -/
theorem firingTickSamplesFirst : Obligations.FiringTickSamplesFirst := by
  intro s z p u hlegal hz hinv hreads hfire
  rw [← elapsed_cast, Nat.cast_le] at hfire
  have hadc := adcReads_of_length hreads
  have hlen : (ticked s p u).hist.length = s.cfg.nHist := by
    rw [ticked_hist, List.length_set, hinv.hist_length]
  have hslot : u.hidx.toNat < u.hist.length := hinv.hist_length ▸ hinv.hidx_lt
  refine ⟨fireZone z p u s, ticked s p u, exec_manageTemperature_of_elapsed hz hfire, zoneUnit_fireZone hz,
    sampleRaw s.cfg s.inp.adc, meanOver s.cfg.nHist (ticked s p u).hist, sampleRaw_toNat hreads, ?_, hlen,
    meanOver_eq _ _, meanOver_le _ _ hlen, ?_, ticked_cur s p u⟩
  · rw [ticked_hist, hadc, List.getElem?_set_self hslot]
  · rw [ticked_sfault, hadc, Bool.or_eq_true, implausible_iff, or_comm]

end Sys2Proof.Claims
end

section
/-! PROOFS. Zone isolation: what a zone operation can write, and what it depends on (41_heater.md R164, 60_exceptions.md
R284). -/

namespace Sys2Proof.Machine

open Claims (zoneOf isWire)

/-! ### What a zone operation writes -/

/-- A wire command names no zone. -/
theorem zoneOf_of_isWire {i : Instr} (h : isWire i = true) : zoneOf i = none := by
  cases i with
  | queuePointAbs | setPosition | delay | unknownOpcode => rfl
  | _ => cases h

section
variable {i : Instr} {s t : State}

/-- A zone operation writes at most its own zone's registers, the trace, the response and the count of draws
(41_heater.md R164). -/
theorem Effect.zoneOf_frame (h : Effect s i t) {z : ZoneNum} (hi : zoneOf i = some z) :
    ∃ zs tr v n, t = { s with zones := zs, trace := tr, response := v, draws := n } ∧
      ∀ k, k ≠ z.toNat → zs[k]? = s.zones[k]? := by
  cases h with
  | responds _ v => exact ⟨s.zones, s.trace, v, s.draws, rfl, fun _ _ => rfl⟩
  | performs i hw => rw [zoneOf_of_isWire hw] at hi; cases hi
  | retargets | enables | disables | ticks =>
    cases hi
    exact ⟨_, _, _, _, rfl, fun k hk => List.getElem?_set_ne hk.symm⟩
  | _ => cases hi

/-- An operation that names no zone touches no zone (60_exceptions.md R284). -/
theorem Effect.zones_of_zoneOf_none (h : Effect s i t) (hi : zoneOf i = none) : t.zones = s.zones := by
  cases h with
  | retargets | enables | disables | ticks => cases hi
  | _ => simp

end

/-! ### What a zone operation depends on -/

/-- A firing tick as the updates it makes: the draws, the zone's registers, the report of its duty, the response
(41_heater.md R161). -/
theorem fireZone_eq_respond (z : ZoneNum) (p : ZoneParams) (u : Zone) (s : State) : fireZone z p u s =
    respond (manageResponse true (ticked s p u)) (emit (.writeDuty z (ticked s p u).duty)
      (setZone z (ticked s p u) { s with draws := s.draws + s.cfg.kReads })) := rfl

/-- Two states that zone `z` cannot tell apart: the same configuration, table, inputs and ADC draws, and the same
registers of that zone. -/
structure ZoneSeesSame (z : ZoneNum) (s₁ s₂ : State) : Prop where
  cfg : s₁.cfg = s₂.cfg
  tmem : s₁.tmem = s₂.tmem
  inp : s₁.inp = s₂.inp
  draws : s₁.draws = s₂.draws
  zone : s₁.zones[z.toNat]? = s₂.zones[z.toNat]?

/-- From `s₁` to `t₁` and from `s₂` to `t₂` the same was done to zone `z` and to the trace. -/
structure SameOnZone (z : ZoneNum) (s₁ s₂ t₁ t₂ : State) : Prop where
  zone : t₁.zones[z.toNat]? = t₂.zones[z.toNat]?
  trace : ∃ es, t₁.trace = s₁.trace ++ es ∧ t₂.trace = s₂.trace ++ es

/-- The same was done to zone `z` and to the trace, and the responses agree. -/
structure SameAnswer (z : ZoneNum) (s₁ s₂ t₁ t₂ : State) : Prop extends SameOnZone z s₁ s₂ t₁ t₂ where
  response : t₁.response = t₂.response

section
variable {z : ZoneNum} {s₁ s₂ t₁ t₂ : State}

/-- Nothing was done yet. -/
theorem SameOnZone.start (h : s₁.zones[z.toNat]? = s₂.zones[z.toNat]?) : SameOnZone z s₁ s₂ s₁ s₂ :=
  ⟨h, [], (List.append_nil _).symm, (List.append_nil _).symm⟩

/-- The same registers are written. -/
theorem SameOnZone.setZone (h : SameOnZone z s₁ s₂ t₁ t₂) (u : Zone) :
    SameOnZone z s₁ s₂ (setZone z u t₁) (setZone z u t₂) :=
  ⟨by simp only [setZone_zones, List.getElem?_set_self', h.zone], h.trace⟩

/-- The same event is emitted. -/
theorem SameOnZone.emit (h : SameOnZone z s₁ s₂ t₁ t₂) (e : Event) : SameOnZone z s₁ s₂ (emit e t₁) (emit e t₂) := by
  obtain ⟨es, h₁, h₂⟩ := h.trace
  exact ⟨h.zone, es ++ [e], by simp [h₁], by simp [h₂]⟩

/-- The count of draws is no register of the zone. -/
theorem SameOnZone.draw (h : SameOnZone z s₁ s₂ t₁ t₂) (n₁ n₂ : Nat) :
    SameOnZone z s₁ s₂ { t₁ with draws := n₁ } { t₂ with draws := n₂ } :=
  ⟨h.zone, h.trace⟩

/-- The same word is responded. -/
theorem SameOnZone.respond (h : SameOnZone z s₁ s₂ t₁ t₂) (v : Word) :
    SameAnswer z s₁ s₂ (respond v t₁) (respond v t₂) :=
  ⟨⟨h.zone, h.trace⟩, rfl⟩

variable (h : ZoneSeesSame z s₁ s₂)
include h

/-- Both blocks have the zone, with the same parameters and registers, or neither has. -/
theorem ZoneSeesSame.zoneUnit_eq : zoneUnit s₁ z = zoneUnit s₂ z := by
  simp only [zoneUnit, h.cfg, h.zone]

/-- A firing tick leaves the same registers. -/
theorem ZoneSeesSame.ticked_eq (p : ZoneParams) (u : Zone) : ticked s₁ p u = ticked s₂ p u := by
  simp only [ticked, adcReads, h.cfg, h.tmem, h.inp, h.draws]

/-- A zone operation answers the same if it does on a zone the block has. -/
theorem ZoneSeesSame.zoneOp {f : ZoneParams → Zone → State → State}
    (hf : ∀ p u, SameAnswer z s₁ s₂ (f p u s₁) (f p u s₂)) :
    SameAnswer z s₁ s₂ (zoneOp z f s₁) (zoneOp z f s₂) := by
  simp only [Machine.zoneOp, h.zoneUnit_eq]
  split
  · exact (SameOnZone.start h.zone).respond 0
  · exact hf _ _

/-- A firing tick answers the same. -/
theorem ZoneSeesSame.fireZone (p : ZoneParams) (u : Zone) :
    SameAnswer z s₁ s₂ (fireZone z p u s₁) (fireZone z p u s₂) := by
  rw [fireZone_eq_respond, fireZone_eq_respond, h.ticked_eq]
  exact ((((SameOnZone.start h.zone).draw _ _).setZone _).emit _).respond _

/-- MANAGE_TEMPERATURE answers the same: both calls are debounced, or both fire. -/
theorem ZoneSeesSame.manageZone (p : ZoneParams) (u : Zone) :
    SameAnswer z s₁ s₂ (manageZone z p u s₁) (manageZone z p u s₂) := by
  have hfires : fires s₁.cfg s₁.inp.now u = fires s₂.cfg s₂.inp.now u := by rw [h.cfg, h.inp]
  rw [Machine.manageZone, Machine.manageZone, hfires]
  split
  · exact h.fireZone p u
  · exact (SameOnZone.start h.zone).respond _

/-- SET_ENABLE of a zone the block has answers the same. -/
theorem ZoneSeesSame.enableZone (f : Bool) (u : Zone) :
    SameOnZone z s₁ s₂ (enableZone z f u s₁) (enableZone z f u s₂) := by
  have hs := SameOnZone.start h.zone
  cases f
  · exact (hs.setZone (disabled u)).emit (.writeDuty z 0)
  · exact hs.setZone (enabled u)

/-- Every zone operation answers the same from two states that its zone cannot tell apart. -/
theorem ZoneSeesSame.exec {i : Instr} (hi : zoneOf i = some z) :
    ∃ t₁ t₂, exec i s₁ = .next t₁ ∧ exec i s₂ = .next t₂ ∧ SameAnswer z s₁ s₂ t₁ t₂ := by
  have hs := SameOnZone.start h.zone
  cases i with
  | manageTemperature => cases hi; exact ⟨_, _, rfl, rfl, h.zoneOp h.manageZone⟩
  | setTarget _ x => cases hi; exact ⟨_, _, rfl, rfl, h.zoneOp fun _ u => (hs.setZone (retarget x u)).respond _⟩
  | hasReached => cases hi; exact ⟨_, _, rfl, rfl, h.zoneOp fun _ _ => hs.respond _⟩
  | setEnable _ f => cases hi; exact ⟨_, _, rfl, rfl, h.zoneOp fun _ u => (h.enableZone f u).respond 0⟩
  | readZstat => cases hi; exact ⟨_, _, rfl, rfl, h.zoneOp fun _ _ => hs.respond _⟩
  | _ => cases hi

end

end Sys2Proof.Machine

namespace Sys2Proof.Claims

open Machine

/-- Settles O18: from the frame of the effects that a zone operation can have, and of the others. -/
theorem zonesShareNothing : Obligations.ZonesShareNothing := by
  intro i s t hexec
  have he := effect_of_exec hexec
  refine ⟨fun z hz => ?_, he.zones_of_zoneOf_none⟩
  obtain ⟨zs, tr, v, n, rfl, hzs⟩ := he.zoneOf_frame hz
  exact ⟨hzs, rfl, rfl, rfl, rfl, rfl, rfl, rfl, rfl, rfl, rfl⟩

/-- Settles O19: the two runs do the same to the zone and the trace, operation by operation. -/
theorem zoneOperationSeesOnlyItsZone : Obligations.ZoneOperationSeesOnlyItsZone := by
  intro i z s₁ s₂ hi hcfg htmem hinp hdraws hzone
  obtain ⟨t₁, t₂, h₁, h₂, ⟨hz, es, htr₁, htr₂⟩, hresp⟩ := ZoneSeesSame.exec ⟨hcfg, htmem, hinp, hdraws, hzone⟩ hi
  exact ⟨t₁, t₂, es, h₁, h₂, hz, hresp, htr₁, htr₂⟩

end Sys2Proof.Claims
end

section
/-! PROOFS. The zone operations of the host: SET_TARGET, SET_ENABLE, HAS_REACHED, and the two outcomes of
MANAGE_TEMPERATURE (41_heater.md R161, R163, R170 to R174). -/

namespace Sys2Proof.Machine

/-- A zone operation on a zone the block has is its effect. -/
theorem zoneOp_of_present {s : State} {z : ZoneNum} {p : ZoneParams} {u : Zone} (h : zoneUnit s z = some (p, u))
    (f : ZoneParams → Zone → State → State) : zoneOp z f s = f p u s := by
  rw [zoneOp, h]

/-! ### Their arithmetic -/

/-- MAXT as the spec writes it (41_heater.md R170). -/
theorem maxTemperature_toInt (x : Temp) :
    (maxTemperature x).toInt = max (-32768) (min 32767 (Int.tdiv (x.toInt * 11) 10)) := by
  obtain ⟨hge, hle⟩ := clamp16_range (tdiv (x.toInt * 11) 10)
  rw [maxTemperature, toInt_ofInt16 hge hle, clamp16, clamp_eq_max_min _ _ _ (by decide), min_comm, tdiv]

/-- The has-reached test as a proposition (41_heater.md R172). -/
theorem reached_iff (u : Zone) : reached u = true ↔ 19 * u.target.toInt < 20 * u.cur.toInt := decide_eq_true_iff

/-- ZSTAT's bits above bit 26 are 0 (10_state.md R51). -/
theorem zstat_lt (u : Zone) : (zstat u).toNat < 2 ^ 31 := by
  have hcur := u.cur.isLt
  have hduty := u.duty.isLt
  have h1 := u.en.toNat_le
  have h2 := u.sfault.toNat_le
  have h3 := (reached u).toNat_le
  rw [zstat_toNat]
  omega

/-- The response of MANAGE_TEMPERATURE as a number: FIRED above ZSTAT (41_heater.md R161). -/
theorem manageResponse_toNat (fired : Bool) (u : Zone) :
    (manageResponse fired u).toNat = fired.toNat * 2 ^ 31 + (zstat u).toNat := by
  have hlt := zstat_lt u
  rw [manageResponse, toNat_append_add, BitVec.toNat_ofBool, BitVec.extractLsb'_toNat, Nat.shiftRight_zero,
    Nat.mod_eq_of_lt hlt]

/-- A debounced call responds ZSTAT: bit 31 is clear in it already (41_heater.md R161). -/
theorem manageResponse_false (u : Zone) : manageResponse false u = zstat u := by
  refine BitVec.eq_of_toNat_eq ?_
  rw [manageResponse_toNat, Bool.toNat_false, Nat.zero_mul, Nat.zero_add]

/-- A firing call responds ZSTAT with bit 31 set (41_heater.md R161). -/
theorem manageResponse_true (u : Zone) : manageResponse true u = zstat u ||| 0x80000000#32 := by
  refine BitVec.eq_of_toNat_eq ?_
  calc (manageResponse true u).toNat
      = 2 ^ 31 * 1 + (zstat u).toNat := by rw [manageResponse_toNat, Bool.toNat_true, Nat.mul_comm]
    _ = 2 ^ 31 * 1 ||| (zstat u).toNat := Nat.two_pow_add_eq_or_of_lt (zstat_lt u) 1
    _ = (zstat u ||| 0x80000000#32).toNat := by rw [BitVec.toNat_or, Nat.lor_comm]; rfl

/-! ### The tick -/

section
variable {s : State} {z : ZoneNum} {p : ZoneParams} {u : Zone}

/-- MANAGE_TEMPERATURE of a zone whose interval has not passed only responds (41_heater.md R161, R163). -/
theorem exec_manageTemperature_of_debounced (hz : zoneUnit s z = some (p, u))
    (h : elapsed s.inp.now u.lastTick < s.cfg.tempInterval) :
    exec (.manageTemperature z) s = .next (respond (zstat u) s) := by
  have hop : exec (.manageTemperature z) s = .next (manageZone z p u s) :=
    congrArg Host.Outcome.next (zoneOp_of_present hz _)
  rcases manageZone_cases z p u s with ⟨-, e⟩ | ⟨hle, -⟩
  · rw [hop, e, manageResponse_false]
  · omega

/-- The state a firing tick leaves: the zone's new registers, the report of its duty, the response, and the draws. -/
theorem fireZone_eq : fireZone z p u s =
    { s with zones := s.zones.set z.toNat (ticked s p u),
             trace := s.trace ++ [.writeDuty z (ticked s p u).duty],
             response := zstat (ticked s p u) ||| 0x80000000#32,
             draws := s.draws + s.cfg.kReads } := by
  rw [fireZone_eq_respond, manageResponse_true]; rfl

end

section
variable (s : State) (p : ZoneParams) (u : Zone)

/-- The registers of a zone of `s` when its tick has sampled and its control law is next (41_heater.md R161). -/
def sampled : Zone := sampleStep s.cfg s.tmem p (adcReads s) { u with lastTick := s.inp.now }

/-- A firing tick is the control step on the zone with its new sample (41_heater.md R161). -/
theorem ticked_eq_controlStep : ticked s p u = controlStep s.cfg p (sampled s p u) := rfl

@[simp] theorem sampled_target : (sampled s p u).target = u.target := by simp [sampled]
@[simp] theorem sampled_maxt : (sampled s p u).maxt = u.maxt := by simp [sampled]
@[simp] theorem sampled_acc : (sampled s p u).acc = u.acc := by simp [sampled]
@[simp] theorem sampled_prev : (sampled s p u).prev = u.prev := by simp [sampled]

/-- The control law works on the tick's own sample (41_heater.md R162). -/
@[simp] theorem sampled_cur : (sampled s p u).cur = (ticked s p u).cur := rfl

@[simp] theorem sampled_en : (sampled s p u).en = (ticked s p u).en := rfl
@[simp] theorem sampled_sfault : (sampled s p u).sfault = (ticked s p u).sfault := rfl

@[simp] theorem ticked_lastTick : (ticked s p u).lastTick = s.inp.now := by simp [ticked_eq_controlStep, sampled]
@[simp] theorem ticked_acc : (ticked s p u).acc = lawAcc p (sampled s p u) := rfl
@[simp] theorem ticked_duty :
    (ticked s p u).duty = forcedDuty (sampled s p u) (lawOutput s.cfg p (sampled s p u)) := rfl

/-- PREV becomes this tick's sample (41_heater.md R169). -/
theorem ticked_prev : (ticked s p u).prev = (ticked s p u).cur := rfl

/-- The write index advances modulo `N_HIST`, in its 4 bits (40_sampler.md R134). -/
theorem ticked_hidx_toNat : (ticked s p u).hidx.toNat = (u.hidx.toNat + 1) % s.cfg.nHist % 16 := by
  simp [ticked_eq_controlStep, sampled]

end

end Sys2Proof.Machine

namespace Sys2Proof.Claims

open Machine

/-- Settles O41: the registers written are those of `retarget`, whose MAXT is the spec's formula. -/
theorem setTargetWritesTargetAndMaxt : Obligations.SetTargetWritesTargetAndMaxt := fun _ _ x _ _ hu =>
  ⟨maxTemperature x, maxTemperature_toInt x, congrArg Host.Outcome.next (zoneOp_of_present hu _)⟩

/-- Settles O42: each flag has its own effect on a zone the block has. -/
theorem setEnableDrivesZeroWhenDisabling : Obligations.SetEnableDrivesZeroWhenDisabling := fun _ _ _ _ hu =>
  ⟨congrArg Host.Outcome.next (zoneOp_of_present hu _), congrArg Host.Outcome.next (zoneOp_of_present hu _)⟩

/-- Settles O43: the response is the bit of the has-reached test. -/
theorem hasReachedIsAboveNinetyFivePercent : Obligations.HasReachedIsAboveNinetyFivePercent := by
  intro s z p u hu
  have hexec : exec (.hasReached z) s = .next (respond ((BitVec.ofBool (reached u)).setWidth 32) s) :=
    congrArg Host.Outcome.next (zoneOp_of_present hu _)
  refine ⟨fun h => ?_, fun h => ?_⟩
  · rw [hexec, (reached_iff u).2 h]; rfl
  · have hnot : reached u = false := Bool.eq_false_iff.2 fun ht => absurd ((reached_iff u).1 ht) (by omega)
    rw [hexec, hnot]; rfl

/-- Settles O45: the interval has not passed, so the call only responds. -/
theorem debouncedCallIsANoOp : Obligations.DebouncedCallIsANoOp := by
  intro s z p u hu h
  rw [← elapsed_cast, Nat.cast_lt] at h
  exact exec_manageTemperature_of_debounced hu h

/-- Settles O46: the zone's new registers are those of `ticked`, register by register. -/
theorem firingTickWritesItsZoneAndReportsTheDuty : Obligations.FiringTickWritesItsZoneAndReportsTheDuty := by
  intro s z p u hu hfire
  rw [← elapsed_cast, Nat.cast_le] at hfire
  refine ⟨ticked s p u, ?_, ticked_lastTick s p u, ticked_prev s p u, ticked_target s p u, ticked_maxt s p u,
    ticked_en s p u, fun hmode => ?_, fun hfault => ?_, ticked_hidx_toNat s p u, fun k hk => ?_, fun hoff => if_pos hoff⟩
  · rw [exec_manageTemperature_of_elapsed hu hfire, fireZone_eq]
  · simp [lawAcc, hmode]
  · simp [hfault]
  · rw [ticked_hist, List.getElem?_set_ne hk.symm]

end Sys2Proof.Claims
end

section
/-! PROOFS. The control laws: what a firing tick computes from its own sample, and the bounds of the PID law's terms
(41_heater.md R162, R166 to R168, R177). -/

namespace Sys2Proof.Machine

/-! ### The law of a tick -/

section
variable {s : State} {z : ZoneNum} {p : ZoneParams} {u : Zone}

/-- The parameters of a zone that a legal block has are legal. -/
theorem legalZone_of_zoneUnit (hc : legalConfig s.cfg = true) (hz : zoneUnit s z = some (p, u)) :
    legalZone s.cfg p = true := by
  obtain ⟨-, -, -, -, -, -, -, -, -, -, -, -, hzones⟩ := legalConfig_spec hc
  obtain ⟨hp, -⟩ := zoneUnit_eq_some.1 hz
  exact hzones p (List.mem_of_getElem? hp)

/-- The control error of a tick is against its own sample (41_heater.md R162, R166). -/
theorem controlError_sampled (s : State) (p : ZoneParams) (u : Zone) :
    controlError (sampled s p u) = u.target.toInt - (ticked s p u).cur.toInt := by
  rw [controlError, sampled_target, sampled_cur]

/-- The accumulator that a PID tick leaves reads back as the clamped sum (41_heater.md R166). -/
theorem ticked_acc_toInt_of_pid (hp : legalZone s.cfg p = true) (hmode : p.controlMode = .pid) :
    (ticked s p u).acc.toInt = nextAcc p (sampled s p u) := by
  obtain ⟨-, -, -, ⟨hmin, -⟩, ⟨-, hmax⟩, -⟩ := legalZone_spec hp
  obtain ⟨hge, hle⟩ := nextAcc_range hp (sampled s p u)
  rw [ticked_acc, lawAcc, hmode]
  exact toInt_ofInt32 (by omega) (by omega)

/-- The duty of a tick that is not forced off is its control law's output (41_heater.md R171). -/
theorem ticked_duty_toNat (hc : legalConfig s.cfg = true) (hp : legalZone s.cfg p = true)
    (hen : (ticked s p u).en = true) (hsfault : (ticked s p u).sfault = false) :
    ((ticked s p u).duty.toNat : Int) = lawOutput s.cfg p (sampled s p u) := by
  obtain ⟨-, -, -, -, -, -, -, ⟨-, hduty⟩, -⟩ := legalConfig_spec hc
  obtain ⟨h0, hle⟩ := lawOutput_range hp (sampled s p u)
  have hon : ¬((sampled s p u).en = false ∨ (sampled s p u).sfault = true) := by
    rw [sampled_en, sampled_sfault, hen, hsfault]; decide
  rw [ticked_duty, forcedDuty, if_neg hon, BitVec.toNat_ofInt]
  omega

end

/-! ### Bounds of the PID law -/

/-- The magnitude of a product, from the magnitudes of its factors. -/
theorem abs_mul_lt_two_pow_63 {k x : Int} (hk : |k| ≤ 2 ^ 31) (hx : |x| ≤ 2 ^ 31) : |k * x| < 2 ^ 63 := by
  calc |k * x| = |k| * |x| := abs_mul k x
    _ ≤ 2 ^ 31 * 2 ^ 31 := mul_le_mul hk hx (abs_nonneg x) (by norm_num)
    _ < 2 ^ 63 := by norm_num

/-- A truncated quotient stays within a bound that the numerator meets times the divisor. -/
theorem abs_tdiv_le {n d b : Int} (hd : 0 < d) (h : |n| ≤ b * d) : |tdiv n d| ≤ b := by
  obtain ⟨hlo, hhi⟩ := abs_le.1 h
  have h1 := tdiv_mono hd (show -b * d ≤ n by linarith)
  have h2 := tdiv_mono hd hhi
  simp only [tdiv, Int.mul_tdiv_cancel _ hd.ne'] at h1 h2
  exact abs_le.2 ⟨h1, h2⟩

end Sys2Proof.Machine

namespace Sys2Proof.Claims

open Machine

/-- Settles O47: the accumulator and the duty are those of the PID law on the tick's own sample, and a clamp is a
`max` of a `min`. -/
theorem pidTickFollowsTheLaw : Obligations.PidTickFollowsTheLaw := by
  intro s z p u hlegal hz hmode hfire
  rw [← elapsed_cast, Nat.cast_le] at hfire
  have hp := legalZone_of_zoneUnit hlegal hz
  obtain ⟨-, -, -, ⟨-, hmin⟩, ⟨hmax, -⟩, -⟩ := legalZone_spec hp
  have hacc := ticked_acc_toInt_of_pid (u := u) hp hmode
  refine ⟨fireZone z p u s, ticked s p u, exec_manageTemperature_of_elapsed hz hfire, zoneUnit_fireZone hz, ?_,
    fun hen hsfault => ?_⟩
  · rw [hacc, nextAcc, clamp_eq_max_min _ _ _ (hmin.trans hmax), min_comm, controlError_sampled, sampled_acc]
  · rw [ticked_duty_toNat hlegal hp hen hsfault, lawOutput, hmode]
    show pidOutput s.cfg p (sampled s p u) = _
    rw [pidOutput, clamp_eq_max_min _ _ _ (Int.natCast_nonneg _), min_comm, controlError_sampled, ← hacc, sampled_cur,
      sampled_prev]
    rfl

/-- Settles O48: bang-bang leaves the accumulator, and its duty is the chain of tests on the tick's own sample. -/
theorem bangBangTickFollowsTheLaw : Obligations.BangBangTickFollowsTheLaw := by
  intro s z p u hlegal hz hmode hfire
  rw [← elapsed_cast, Nat.cast_le] at hfire
  have hp := legalZone_of_zoneUnit hlegal hz
  refine ⟨fireZone z p u s, ticked s p u, exec_manageTemperature_of_elapsed hz hfire, zoneUnit_fireZone hz, ?_,
    fun hen hsfault => ?_⟩
  · simp [lawAcc, hmode]
  · have hlaw : lawOutput s.cfg p (sampled s p u) = bangBangOutput s.cfg p (sampled s p u) := by
      rw [lawOutput, hmode]
    have hduty := ticked_duty_toNat hlegal hp hen hsfault
    rw [hlaw, bangBangOutput, sampled_cur, sampled_target, sampled_maxt] at hduty
    split_ifs at hduty ⊢ <;> omega

/-- Settles O56: a temperature difference, the accumulator and the gains are all at most 2^31 in magnitude. -/
theorem pidProductsStayBelowTwoToThe63 : Obligations.PidProductsStayBelowTwoToThe63 := by
  intro c p u hp
  obtain ⟨hkp, hki, hkd, ⟨hmin, -⟩, ⟨-, hmax⟩, -⟩ := legalZone_spec hp
  obtain ⟨hge, hle⟩ := nextAcc_range hp u
  have htarget := temp_range u.target
  have hcur := temp_range u.cur
  have hprev := temp_range u.prev
  refine ⟨abs_mul_lt_two_pow_63 ?_ ?_, abs_mul_lt_two_pow_63 ?_ ?_, abs_mul_lt_two_pow_63 ?_ ?_⟩ <;>
    simp only [abs_le, controlError] <;> omega

/-- Settles O57: the accumulator is within the derived bounds, so its product with the gain is within the ceiling times
`2^GAIN_FRAC`. -/
theorem integralTermStaysUnderItsCeiling : Obligations.IntegralTermStaysUnderItsCeiling := by
  intro c p u ceiling hceiling hki hmax hmin
  have hscale : (0 : Int) < 2 ^ c.gainFrac := by positivity
  have hnonneg : 0 ≤ p.iMax := hmax ▸ Int.ediv_nonneg (mul_nonneg hceiling hscale.le) hki.le
  have hbound : p.ki * p.iMax ≤ ceiling * 2 ^ c.gainFrac := hmax ▸ Int.mul_ediv_self_le hki.ne'
  obtain ⟨hge, hle, -⟩ := clamp_spec (u.acc.toInt + controlError u) p.iMin p.iMax (by omega)
  have hacc : |nextAcc p u| ≤ p.iMax := abs_le.2 ⟨hmin ▸ hge, hle⟩
  refine abs_tdiv_le hscale ?_
  calc |p.ki * nextAcc p u| = p.ki * |nextAcc p u| := by rw [abs_mul, abs_of_pos hki]
    _ ≤ p.ki * p.iMax := mul_le_mul_of_nonneg_left hacc hki.le
    _ ≤ ceiling * 2 ^ c.gainFrac := hbound

end Sys2Proof.Claims
end

section
/-! PROOFS. PUSH_BYTE with room and on a full queue, and the dispatcher operations that write at most PAUSED and the
response (42_dispatcher.md R201, R207, R208, R210). -/

namespace Sys2Proof.Machine

/-- The response of PUSH_BYTE is QLEN above a half word that is ACCEPTED (42_dispatcher.md R201). -/
theorem pushResponse_eq (s : State) (accepted : Bool) :
    pushResponse s accepted = s.qlen ++ (if accepted then 1#16 else 0#16) := by
  have hhalf : (if accepted then 1#16 else 0#16).toNat = accepted.toNat := by cases accepted <;> rfl
  refine BitVec.eq_of_toNat_eq ?_
  simp only [pushResponse, toNat_append_add, BitVec.toNat_ofBool, BitVec.toNat_ofNat, hhalf]
  omega

section
variable {s : State} (b : Byte)

/-- PUSH_BYTE with room goes on from the pushed byte (42_dispatcher.md R201). -/
theorem exec_pushByte_of_room (h : s.qlen.toNat < s.cfg.qCap) : exec (.pushByte b) s = .next (pushed b s) :=
  congrArg Host.Outcome.next (if_pos h)

/-- PUSH_BYTE on a full queue sets F3 and answers the length it found (42_dispatcher.md R201). -/
theorem exec_pushByte_of_full (h : s.cfg.qCap ≤ s.qlen.toNat) :
    exec (.pushByte b) s = .next (respond (pushResponse s false) (setFault .queueOverflow s)) :=
  congrArg Host.Outcome.next (if_neg (Nat.not_lt.2 h))

/-- A read of the buffer after PUSH_BYTE: the byte at `(QHEAD + QLEN) mod Q_CAP`, elsewhere what stood there
(20_memory.md R73). -/
theorem pushed_read (s : State) (a : Nat) : (pushed b s).qmem.read a =
    if a = (s.qhead.toNat + s.qlen.toNat) % s.cfg.qCap then some b else s.qmem.read a :=
  Memory.read_write s.qmem _ b a

/-- PUSH_BYTE writes the buffer, QLEN and the response only (42_dispatcher.md R201). -/
theorem pushed_frame (s : State) : pushed b s =
    { s with qmem := (pushed b s).qmem, qlen := s.qlen + 1, response := (s.qlen + 1) ++ 1#16 } := by
  have hresponse : pushResponse (queuePush b s) true = (s.qlen + 1) ++ 1#16 := pushResponse_eq _ true
  rw [← hresponse]; rfl

end

end Sys2Proof.Machine

namespace Sys2Proof

/-- HOP is the word's top four bits (30_encoding.md R100). -/
theorem hopField_toNat (w : Word) : (hopField w).toNat = w.toNat / 268435456 := by
  have := w.isLt
  simp only [hopField, BitVec.extractLsb'_toNat, Nat.shiftRight_eq_div_pow]
  omega

end Sys2Proof

namespace Sys2Proof.Claims

open Machine

/-- Settles O21: the push writes one cell, the one behind the window, so the window grows by its byte. -/
theorem pushByteAppends : Obligations.PushByteAppends := by
  intro s b hlegal hroom
  obtain ⟨-, -, -, -, -, -, -, -, -, -, ⟨-, hcap⟩, -⟩ := legalConfig_spec hlegal
  refine ⟨pushed b s, exec_pushByte_of_room b hroom, pushed_frame b s, queueWindow_pushed b hroom hcap, ?_,
    fun a ha => ?_⟩
  · rw [pushed_read, if_pos rfl]
  · rw [pushed_read, if_neg ha]

/-- Settles O22: the full queue's branch of PUSH_BYTE, with ACCEPTED 0. -/
theorem pushByteWhenFullDropsTheByte : Obligations.PushByteWhenFullDropsTheByte := by
  intro s b hfull
  rw [exec_pushByte_of_full b hfull, pushResponse_eq]
  rfl

/-- Settles O37: PAUSE by its meaning; QUERY_PAUSED's response is the flag as a word, for either value. -/
theorem pauseIsWhatQueryPausedReads : Obligations.PauseIsWhatQueryPausedReads := by
  intro s f
  have hword : (BitVec.ofBool s.paused).setWidth 32 = if s.paused then 1 else 0 := by cases s.paused <;> rfl
  refine ⟨rfl, ?_⟩
  rw [← hword]; rfl

/-- Settles O39: the five operations by their meanings; a word from 0xC0000000 on has one of the reserved codes. -/
theorem nopAndReservedWordsOnlyRespond : Obligations.NopAndReservedWordsOnlyRespond := by
  refine ⟨fun s => ⟨rfl, rfl, rfl, rfl, rfl⟩, fun w hw => ?_⟩
  have hreserved := decodeHost_of_reserved (w := w) (by rw [hopField_toNat]; omega)
  refine ⟨fun hnop => ?_, hreserved⟩
  rw [hnop] at hreserved
  rcases hreserved with e | e | e | e <;> cases e

end Sys2Proof.Claims
end

section
/-! PROOFS. The slice: the pause test, steps 1 and 2 in each mode, and the decode step (42_dispatcher.md R202 to R205,
R212 to R214). -/

namespace Sys2Proof.Machine

open Claims (isWire withDstat)
open Laws.EncodedLength (lengthBytes)

/-- A paused RUN_SLICE only responds DSTAT (42_dispatcher.md R203). -/
theorem exec_runSlice_of_paused {s : State} (h : s.paused = true) : exec .runSlice s = .next (withDstat s) :=
  congrArg Host.Outcome.next (if_pos h)

/-! ### Steps 1 and 2 -/

section
variable {s : State}

/-- Step 1 or step 2 has a move or a delay to end (42_dispatcher.md R204). -/
def CompletionDue (s : State) : Prop :=
  (s.mode = .moving ∧ s.inp.running = false) ∨ (s.mode = .delay ∧ s.dlyDur.toNat ≤ elapsed s.inp.now s.dlyStart)

/-- READY has nothing to end. -/
theorem not_completionDue_of_ready (hm : s.mode = .ready) : ¬ CompletionDue s := by simp [CompletionDue, hm]

/-- A move or a delay that is due to end leaves READY. -/
theorem complete_of_due (h : CompletionDue s) : completeDelay (completeMove s) = { s with mode := .ready } := by
  rcases h with ⟨hm, hr⟩ | ⟨hm, hle⟩
  · simp [completeMove, completeDelay, hm, hr]
  · simp [completeMove, completeDelay, hm, hle]

/-- With nothing due, steps 1 and 2 do nothing. -/
theorem complete_of_not_due (h : ¬ CompletionDue s) : completeDelay (completeMove s) = s := by
  rcases complete_cases s with e | ⟨hdue, -⟩
  · exact e
  · exact absurd hdue h

/-- A slice that ends a move or a delay is the slice of the same state in READY. -/
theorem slice_of_due (h : CompletionDue s) : slice s = slice { s with mode := .ready } := by
  rw [slice, slice, complete_of_due h, complete_of_not_due (not_completionDue_of_ready rfl)]

/-- A slice that ends nothing, and may not decode, writes only DRESULT (42_dispatcher.md R205). -/
theorem slice_of_not_attempted (h : ¬ CompletionDue s)
    (hno : ¬(s.mode = .ready ∧ s.pfault = false ∧ 1 ≤ s.qlen.toNat)) :
    slice s = { s with dresult := .notAttempted } := by
  rw [slice, complete_of_not_due h, decodeStep, if_neg hno]

/-- An unpaused RUN_SLICE that ends a move or a delay answers as from READY. -/
theorem exec_runSlice_of_due (hp : s.paused = false) (h : CompletionDue s) :
    ∃ t, exec .runSlice s = .next t ∧ exec .runSlice { s with mode := .ready } = .next t :=
  ⟨withDstat (slice { s with mode := .ready }), slice_of_due h ▸ exec_runSlice_of_not_paused hp,
    exec_runSlice_of_not_paused (s := { s with mode := .ready }) hp⟩

/-- An unpaused RUN_SLICE that attempts no decoding writes DRESULT and responds DSTAT. -/
theorem exec_runSlice_of_not_attempted (hp : s.paused = false) (h : ¬ CompletionDue s)
    (hno : ¬(s.mode = .ready ∧ s.pfault = false ∧ 1 ≤ s.qlen.toNat)) :
    exec .runSlice s = .next (withDstat { s with dresult := .notAttempted }) := by
  rw [exec_runSlice_of_not_paused hp, slice_of_not_attempted h hno]

end

/-! ### The command at the head of the queue -/

section
variable {s : State} {o : Opcodes} {op : Byte} {bs : List Byte}

/-- A dispatch with all its bytes there reports DISPATCHED. -/
theorem dispatch_dresult {n : Nat} (hn : n ≤ s.qlen.toNat) (f : State → State) :
    (dispatch n f s).dresult = .dispatched := by
  rcases dispatch_cases n f s with ⟨hlt, -⟩ | ⟨-, e⟩
  · omega
  · rw [e]

/-- A whole command reports DISPATCHED if its opcode is recognized, else PROTO_FAULT (43_wire_commands.md R245). -/
theorem performWire_wireCommand_dresult (hn : wireLength o op ≤ s.qlen.toNat) :
    (performWire (wireCommand o op bs) s).dresult = if o.recognized op then .dispatched else .protoFault := by
  rcases wireCommand_cases o op bs with ⟨hop, hlen, e⟩ | ⟨-, hop, hlen, e⟩ | ⟨-, -, hop, hlen, e⟩ |
    ⟨hrec, hlen, e⟩ <;> rw [hlen] at hn <;> rw [e]
  case inr.inr.inr =>
    rcases unknownOpcode_cases op s with ⟨hzero, -⟩ | ⟨-, e'⟩
    · omega
    · rw [performWire, e', hrec]; rfl
  all_goals
    have hrec : o.recognized op = true := by simp [Opcodes.recognized, hop]
    rw [if_pos hrec]
    exact dispatch_dresult hn _

/-- A whole command pops exactly its opcode's length (43_wire_commands.md R248). -/
theorem queueWindow_performWire_wireCommand (hn : wireLength o op ≤ s.qlen.toNat) (h0 : 0 < s.cfg.qCap)
    (hq : s.cfg.qCap ≤ 65535) :
    queueWindow (performWire (wireCommand o op bs) s) = (queueWindow s).drop (wireLength o op) := by
  rw [← lengthBytes_wireCommand o op bs] at hn ⊢
  exact queueWindow_performWire (isWire_wireCommand o op bs) hn h0 hq

end

/-! ### WAIT_ON_TOOL (42_dispatcher.md R212) -/

/-- A host word is no wire command. -/
theorem isWire_decodeHost (w : Word) : isWire (decodeHost w) = false := by
  unfold decodeHost; split <;> rfl

/-- A slice neither enters nor leaves WAIT_ON_TOOL. -/
theorem slice_waitOnTool_iff (s : State) : (slice s).mode = .waitOnTool ↔ s.mode = .waitOnTool := by
  obtain ⟨-, -, -, -, -, -, -, -, -, -, -, h, -⟩ := slice_frame s; exact h

/-- No host operation but RESET_COMMANDS enters or leaves WAIT_ON_TOOL. -/
theorem Effect.waitOnTool_iff {i : Instr} {s t : State} (h : Effect s i t) (hi : isWire i = false)
    (hne : i ≠ .resetCommands) : t.mode = .waitOnTool ↔ s.mode = .waitOnTool := by
  cases h with
  | slices => exact slice_waitOnTool_iff s
  | resets => exact absurd rfl hne
  | performs _ hwire => rw [hi] at hwire; cases hwire
  | _ => simp

end Sys2Proof.Machine

namespace Sys2Proof.Claims

open Machine

/-- Settles O23: a paused slice is no operation, and an unpaused one attempts nothing, reports INCOMPLETE, or performs
the command at the head of the queue, which pops its own length. -/
theorem slicePopsOneWholeCommandOrNothing : Obligations.SlicePopsOneWholeCommandOrNothing := by
  intro s hlegal
  obtain ⟨-, -, -, -, -, -, -, -, -, -, ⟨hcap17, hcap⟩, -⟩ := legalConfig_spec hlegal
  cases hp : s.paused with
  | true => exact ⟨withDstat s, exec_runSlice_of_paused hp, rfl, .inl ⟨rfl, rfl, rfl, .inl rfl⟩⟩
  | false =>
    refine ⟨withDstat (slice s), exec_runSlice_of_not_paused hp, slice_qmem s, ?_⟩
    obtain ⟨m, -, ⟨hno, e⟩ | ⟨-, -, op, rest, hwin, ⟨hrec, hlt, e⟩ | ⟨hle, e⟩⟩⟩ := slice_cases s <;> rw [e]
    · exact .inl ⟨rfl, rfl, rfl, .inr (.inl ⟨rfl, hno⟩)⟩
    · exact .inl ⟨rfl, rfl, rfl, .inr (.inr ⟨rfl, op, rest, hwin, hrec, hlt⟩)⟩
    · refine .inr ⟨op, rest, hwin, hle, ?_, performWire_wireCommand_dresult hle⟩
      calc queueWindow (withDstat (performWire (wireCommand s.cfg.opc op (queueWindow s)) { s with mode := m }))
          = queueWindow (performWire (wireCommand s.cfg.opc op (queueWindow s)) { s with mode := m }) :=
            queueWindow_congr rfl rfl rfl rfl
        _ = (queueWindow { s with mode := m }).drop (wireLength s.cfg.opc op) :=
            queueWindow_performWire_wireCommand hle (show 0 < s.cfg.qCap by omega) hcap
        _ = (queueWindow s).drop (wireLength s.cfg.opc op) := rfl

/-- Settles O25: in MOVING a completion is due exactly when the motion subsystem does not run; without READY nothing is
decoded. -/
theorem movingEndsExactlyWhenMotionStops : Obligations.MovingEndsExactlyWhenMotionStops := fun _ hp hm =>
  ⟨fun hr => exec_runSlice_of_not_attempted hp (by simp [CompletionDue, hm, hr]) (by simp [hm]),
    fun hr => exec_runSlice_of_due hp (.inl ⟨hm, hr⟩)⟩

/-- Settles O26: in DELAY a completion is due exactly when the elapsed time, which is the difference modulo 2^32, has
reached the duration. -/
theorem delayEndsExactlyWhenElapsed : Obligations.DelayEndsExactlyWhenElapsed := by
  intro s hp hm
  rw [← elapsed_cast, Nat.cast_lt, Nat.cast_le]
  exact ⟨fun hlt => exec_runSlice_of_not_attempted hp (by simp [CompletionDue, hm, hlt]) (by simp [hm]),
    fun hle => exec_runSlice_of_due hp (.inr ⟨hm, hle⟩)⟩

/-- Settles O27: in WAIT_ON_TOOL no completion is due and nothing is decoded; of the effects of a host word only the
reset of the dispatcher changes whether the mode holds. -/
theorem waitOnToolIsNeitherEnteredNorLeft : Obligations.WaitOnToolIsNeitherEnteredNorLeft := by
  refine ⟨fun s hp hm => exec_runSlice_of_not_attempted hp (by simp [CompletionDue, hm]) (by simp [hm]),
    fun w s t h => ?_, blockReset_mode⟩
  by_cases hreset : decodeHost w = .resetCommands
  · rw [hreset] at h
    cases h
    simp [hreset]
  · simpa [hreset] using (effect_of_exec h).waitOnTool_iff (isWire_decodeHost w) hreset

/-- Settles O29: the slice performs what the queue decodes to, which as an instruction has that same meaning. -/
theorem sliceRunsTheDecodedCommand : Obligations.SliceRunsTheDecodedCommand := by
  intro s i rest hlegal hp hm hpf hdec
  obtain ⟨-, -, -, -, -, -, -, -, -, -, ⟨hcap17, hcap⟩, -⟩ := legalConfig_spec hlegal
  obtain ⟨hi, hrest⟩ := queueWindow_performWire_of_decodeWire (by omega) hcap hdec
  refine ⟨performWire i s, exec_of_isWire hi s, ?_, hrest⟩
  rw [exec_runSlice_of_not_paused hp, slice_of_decodeWire hm hpf hdec]

/-- Settles O24: the pause test comes first. -/
theorem pausedSliceIsANoOp : Obligations.PausedSliceIsANoOp := fun _ hp => exec_runSlice_of_paused hp

/-- Settles O28: a protocol fault and an empty queue each fail the test of step 3. -/
theorem noDecodingUnderAFaultOrOnAnEmptyQueue : Obligations.NoDecodingUnderAFaultOrOnAnEmptyQueue := by
  intro s hp hm hno
  refine exec_runSlice_of_not_attempted hp (not_completionDue_of_ready hm) ?_
  rintro ⟨-, hpf, hlen⟩
  rcases hno with h | h
  · rw [hpf] at h; cases h
  · rw [h] at hlen; exact absurd hlen (by decide)

end Sys2Proof.Claims
end

section
/-! PROOFS. The wire commands on a queue that holds all of their bytes and on one that does not yet: the bytes popped,
the effect, and INCOMPLETE (43_wire_commands.md R241 to R248). -/

namespace Sys2Proof.Machine

/-! ### The ring behind a pop -/

section
variable {s : State} {n : Nat}

/-- `Q.pop(n)` moves the head on by `n` around the ring (20_memory.md R73). -/
theorem queuePop_qhead_toNat (h0 : 0 < s.cfg.qCap) (hq : s.cfg.qCap ≤ 65535) :
    (queuePop n s).qhead.toNat = (s.qhead.toNat + n) % s.cfg.qCap := by
  have hindex := queueIndex_lt s n h0
  rw [queuePop_qhead, BitVec.toNat_ofNat]; exact Nat.mod_eq_of_lt (by omega)

/-- `Q.pop(n)` takes `n` from the length (20_memory.md R73). -/
theorem queuePop_qlen_toNat (hn : n ≤ s.qlen.toNat) : (queuePop n s).qlen.toNat = s.qlen.toNat - n := by
  have hlen := s.qlen.isLt
  rw [queuePop_qlen, BitVec.toNat_sub, BitVec.toNat_ofNat]; omega

/-- An operation that pops `n` bytes, and writes no other part of the queue, drops them from the window. -/
theorem ring_of_pop {t : State} (hlegal : legalConfig s.cfg = true) (hn : n ≤ s.qlen.toNat) (hcfg : t.cfg = s.cfg)
    (hmem : t.qmem = s.qmem) (hhead : t.qhead = (queuePop n s).qhead) (hlen : t.qlen = (queuePop n s).qlen) :
    t.qhead.toNat = (s.qhead.toNat + n) % s.cfg.qCap ∧ t.qlen.toNat = s.qlen.toNat - n ∧
    queueWindow t = (queueWindow s).drop n := by
  obtain ⟨-, -, -, -, -, -, -, -, -, -, ⟨hcap17, hcap⟩, -⟩ := legalConfig_spec hlegal
  have h0 : 0 < s.cfg.qCap := by omega
  refine ⟨?_, ?_, ?_⟩
  · rw [hhead, queuePop_qhead_toNat h0 hcap]
  · rw [hlen, queuePop_qlen_toNat hn]
  · rw [queueWindow_congr (s := queuePop n s) hcfg hmem hhead hlen, queueWindow_pop s n hn h0 hcap]

/-! ### Dispatch and INCOMPLETE -/

/-- A command whose bytes are all there is popped and performed (43_wire_commands.md R244). -/
theorem dispatch_of_le (hn : n ≤ s.qlen.toNat) (f : State → State) :
    dispatch n f s = { f (queuePop n s) with dresult := .dispatched } := if_neg (Nat.not_lt.2 hn)

/-- A command whose bytes are not all there waits (43_wire_commands.md R244). -/
theorem dispatch_of_lt (hn : s.qlen.toNat < n) (f : State → State) :
    dispatch n f s = { s with dresult := .incomplete } := if_pos hn

/-- What a dispatched instruction does, `g` being its frame and `f` what it performs, which leaves the queue alone: with
its bytes there it pops them and performs `f`; with fewer only DRESULT changes (43_wire_commands.md R244). -/
theorem exec_of_dispatch {i : Instr} {f g : State → State} (hlegal : legalConfig s.cfg = true)
    (hi : exec i s = .next (dispatch n f s))
    (hf : ∀ t, (f t).cfg = t.cfg ∧ (f t).qmem = t.qmem ∧ (f t).qhead = t.qhead ∧ (f t).qlen = t.qlen)
    (hg : { f (queuePop n s) with dresult := .dispatched } = g { f (queuePop n s) with dresult := .dispatched }) :
    (n ≤ s.qlen.toNat → ∃ t, exec i s = .next t ∧ t = g t ∧ t.qhead.toNat = (s.qhead.toNat + n) % s.cfg.qCap ∧
      t.qlen.toNat = s.qlen.toNat - n ∧ queueWindow t = (queueWindow s).drop n) ∧
    (s.qlen.toNat < n → exec i s = .next { s with dresult := .incomplete }) := by
  obtain ⟨hcfg, hmem, hhead, hlen⟩ := hf (queuePop n s)
  rw [hi]
  refine ⟨fun hn => ⟨_, congrArg _ (dispatch_of_le hn f), hg, ?_⟩, fun hlt => congrArg _ (dispatch_of_lt hlt f)⟩
  exact ring_of_pop hlegal hn hcfg hmem hhead hlen

/-- In READY and without a protocol fault, a slice that finds a command's bytes not all there writes only DRESULT
(42_dispatcher.md R205, 43_wire_commands.md R244). -/
theorem slice_of_incomplete {op : Byte} {rest : List Byte} (hm : s.mode = .ready) (hpf : s.pfault = false)
    (hwin : queueWindow s = op :: rest) (hlt : s.qlen.toNat < wireLength s.cfg.opc op) :
    slice s = { s with dresult := .incomplete } := by
  obtain ⟨-, hlen⟩ := queueWindow_head hwin
  have hdecode : slice s = decodeHead s := by
    rw [slice, complete_of_not_due (not_completionDue_of_ready hm)]
    exact if_pos ⟨hm, hpf, by omega⟩
  rcases decodeHead_cases s with ⟨hnil, -⟩ | ⟨op', rest', hwin', hwhole⟩
  · rw [hwin] at hnil; cases hnil
  · rw [hwin] at hwin'
    cases hwin'
    rcases hwhole with ⟨-, -, e⟩ | ⟨hle, -⟩
    · rw [hdecode, e]; rfl
    · omega

end

end Sys2Proof.Machine

namespace Sys2Proof.Claims

open Machine

/-- Settles O30: the test of step 3 passes, and decoding the head of the queue is INCOMPLETE. -/
theorem incompleteCommandWaits : Obligations.IncompleteCommandWaits := by
  intro s op rest hp hm hpf hwin hlt
  rw [exec_runSlice_of_not_paused hp, slice_of_incomplete hm hpf hwin hlt]

/-- Settles O32: a dispatch of 17 bytes; emitting the event and entering MOVING leave the queue alone. -/
theorem queuePointAbsHandsTheMoveOn : Obligations.QueuePointAbsHandsTheMoveOn := fun _ _ _ _ _ hlegal =>
  exec_of_dispatch hlegal rfl (fun _ => ⟨rfl, rfl, rfl, rfl⟩) rfl

/-- Settles O33: a dispatch of 13 bytes; emitting the event leaves the queue alone. -/
theorem setPositionHandsThePositionOn : Obligations.SetPositionHandsThePositionOn := fun _ _ _ _ hlegal =>
  exec_of_dispatch hlegal rfl (fun _ => ⟨rfl, rfl, rfl, rfl⟩) rfl

/-- Settles O34: a dispatch of 5 bytes; starting the delay leaves the queue alone. -/
theorem delayStartsTheTimeout : Obligations.DelayStartsTheTimeout := fun _ _ hlegal =>
  exec_of_dispatch hlegal rfl (fun _ => ⟨rfl, rfl, rfl, rfl⟩) rfl

/-- Settles O35: with a byte in the queue an unknown opcode pops it and raises F1. -/
theorem unknownOpcodeIsDiscardedAndReported : Obligations.UnknownOpcodeIsDiscardedAndReported := by
  intro s op hlegal hn
  rcases unknownOpcode_cases op s with ⟨hzero, -⟩ | ⟨-, e⟩
  · omega
  · exact ⟨_, congrArg Host.Outcome.next e, rfl, ring_of_pop hlegal hn rfl rfl rfl rfl⟩

end Sys2Proof.Claims
end

section
/-! PROOFS. The fault bits: what can raise each and what can clear it (60_exceptions.md R270, R277, R279). -/

namespace Sys2Proof.Machine

section
variable {i : Instr} {s t : State}

/-! ### F1 and F3, the faults of the block -/

/-- A slice clears no protocol fault. -/
theorem slice_pfault_of_pfault (h : s.pfault = true) : (slice s).pfault = true := by
  obtain ⟨-, -, -, -, -, -, -, -, -, -, hkept, -⟩ := slice_frame s; exact hkept h

/-- A wire command clears no protocol fault. -/
theorem performWire_pfault_of_pfault (i : Instr) (h : s.pfault = true) : (performWire i s).pfault = true := by
  obtain ⟨-, -, -, -, -, -, -, -, -, -, hkept, -⟩ := performWire_frame i s; exact hkept h

/-- F1 is cleared by RESET_COMMANDS alone (60_exceptions.md R279). -/
theorem Effect.pfault_cleared (h : Effect s i t) (hs : s.pfault = true) (ht : t.pfault = false) :
    i = .resetCommands := by
  cases h with
  | resets => rfl
  | slices => simp [slice_pfault_of_pfault hs] at ht
  | performs i => simp [performWire_pfault_of_pfault i hs] at ht
  | _ => simp [hs] at ht

/-- F3 is cleared by RESET_COMMANDS alone (60_exceptions.md R279). -/
theorem Effect.qovf_cleared (h : Effect s i t) (hs : s.qovf = true) (ht : t.qovf = false) : i = .resetCommands := by
  cases h with
  | resets => rfl
  | _ => simp [hs] at ht

/-- F1 is raised by an unrecognized opcode alone: RESET_COMMANDS, the other writer of PFAULT, clears it (60_exceptions.md
R271). -/
theorem Effect.pfault_raised (h : Effect s i t) (hs : s.pfault = false) (ht : t.pfault = true) :
    (i = .runSlice ∧ ∃ op rest, queueWindow s = op :: rest ∧ s.cfg.opc.recognized op = false) ∨
      ∃ op, i = .unknownOpcode op := by
  rcases h.pfault_writer (by simp [hs, ht]) with hslice | rfl | hop
  · exact .inl hslice
  · cases h with
    | performs _ hw => cases hw
    | _ => simp [hs] at ht
  · exact .inr hop

/-- F3 is raised by PUSH_BYTE alone: RESET_COMMANDS, the other writer of QOVF, clears it (60_exceptions.md R274). -/
theorem Effect.qovf_raised (h : Effect s i t) (hs : s.qovf = false) (ht : t.qovf = true) : ∃ b, i = .pushByte b := by
  rcases h.qovf_writer (by simp [hs, ht]) with hpush | rfl
  · exact hpush
  · cases h <;> simp [hs] at ht

/-- PUSH_BYTE writes no PFAULT (10_state.md R34). -/
theorem Effect.pfault_of_pushByte {b : Byte} (h : Effect s (.pushByte b) t) : t.pfault = s.pfault := by
  cases h with
  | performs _ hw => cases hw
  | _ => simp

/-- QOVF stays under every operation but its two writers, PUSH_BYTE and RESET_COMMANDS. -/
theorem Effect.qovf_eq (h : Effect s i t) (hpush : ∀ b, i ≠ .pushByte b) (hreset : i ≠ .resetCommands) :
    t.qovf = s.qovf := by
  by_contra hne
  rcases h.qovf_writer hne with ⟨b, hi⟩ | hi
  · exact hpush b hi
  · exact hreset hi

/-- The slice that changes PFAULT is not paused (42_dispatcher.md R203). -/
theorem paused_of_exec_runSlice (h : exec .runSlice s = .next t) (hne : t.pfault ≠ s.pfault) : s.paused = false := by
  by_contra hp
  rw [exec_runSlice_of_paused (Bool.not_eq_false _ ▸ hp)] at h
  cases h
  exact hne rfl

/-- The PUSH_BYTE that changes QOVF meets a full queue (42_dispatcher.md R201). -/
theorem full_of_exec_pushByte {b : Byte} (h : exec (.pushByte b) s = .next t) (hne : t.qovf ≠ s.qovf) :
    s.cfg.qCap ≤ s.qlen.toNat := by
  by_contra hroom
  rw [exec_pushByte_of_room b (not_le.1 hroom)] at h
  cases h
  exact hne rfl

/-! ### F2, the fault of one zone -/

section
variable {k : Nat} {u u' : Zone}

/-- MANAGE_TEMPERATURE leaves its zone's registers as they are, or as a firing tick leaves them (41_heater.md R161). -/
theorem Effect.zone_of_manageTemperature {z : ZoneNum} (h : Effect s (.manageTemperature z) t)
    (hu : s.zones[z.toNat]? = some u) (hu' : t.zones[z.toNat]? = some u') :
    u' = u ∨ ∃ p, zoneUnit s z = some (p, u) ∧ u' = ticked s p u := by
  cases h with
  | responds => exact .inl (Option.some.inj (hu'.symm.trans hu))
  | performs _ hw => cases hw
  | ticks _ p w _ _ hz =>
    obtain ⟨-, hw⟩ := zoneUnit_eq_some.1 hz
    cases hw.symm.trans hu
    obtain ⟨hlt, -⟩ := List.getElem?_eq_some_iff.1 hu
    exact .inr ⟨p, hz, Option.some.inj (hu'.symm.trans (List.getElem?_set_self hlt))⟩

/-- SFAULT changes only in a firing tick of its own zone (10_state.md R46). -/
theorem Effect.sfault_writer (h : Effect s i t) (hu : s.zones[k]? = some u) (hu' : t.zones[k]? = some u')
    (hne : u'.sfault ≠ u.sfault) :
    ∃ z p, i = .manageTemperature z ∧ z.toNat = k ∧ zoneUnit s z = some (p, u) ∧ u' = ticked s p u := by
  obtain ⟨-, hsample, -⟩ := h.zone_writers hu hu'
  obtain ⟨z, rfl, rfl⟩ := hsample (by simp [hne])
  rcases h.zone_of_manageTemperature hu hu' with rfl | ⟨p, hz, htick⟩
  · exact absurd rfl hne
  · exact ⟨z, p, rfl, rfl, hz, htick⟩

/-- F2 is cleared by no operation (60_exceptions.md R279): a firing tick only adds to it. -/
theorem Effect.sfault_sticky (h : Effect s i t) (hu : s.zones[k]? = some u) (hu' : t.zones[k]? = some u')
    (hs : u.sfault = true) : u'.sfault = true := by
  by_contra hne
  obtain ⟨z, p, -, -, -, rfl⟩ := h.sfault_writer hu hu' (by simpa [hs] using hne)
  exact hne (by simp [hs])

/-- A firing tick raises F2 only with detection enabled (40_sampler.md R137). -/
theorem sfEn_of_ticked_sfault {p : ZoneParams} (hs : u.sfault = false) (ht : (ticked s p u).sfault = true) :
    s.cfg.sfEn = true := by
  rw [ticked_sfault, hs, Bool.or_false] at ht
  obtain ⟨hen, -⟩ := (implausible_iff _ _).1 ht
  exact hen

/-- The MANAGE_TEMPERATURE that changes its zone's registers fires (41_heater.md R163). -/
theorem elapsed_of_exec_manageTemperature {z : ZoneNum} {p : ZoneParams} (h : exec (.manageTemperature z) s = .next t)
    (hz : zoneUnit s z = some (p, u)) (hu' : t.zones[z.toNat]? = some u') (hne : u' ≠ u) :
    s.cfg.tempInterval ≤ elapsed s.inp.now u.lastTick := by
  by_contra hdebounced
  rw [exec_manageTemperature_of_debounced hz (not_le.1 hdebounced)] at h
  cases h
  obtain ⟨-, hu⟩ := zoneUnit_eq_some.1 hz
  exact hne (Option.some.inj (hu'.symm.trans hu))

end

end

end Sys2Proof.Machine

namespace Sys2Proof.Claims

open Machine

/-- Settles O15: F2 only grows in a firing tick, and RESET_COMMANDS is the only effect that clears F1 or F3. -/
theorem faultBitsAreSticky : Obligations.FaultBitsAreSticky := by
  intro i s t h
  have he := effect_of_exec h
  exact ⟨fun _ _ _ hu hu' => he.sfault_sticky hu hu', he.pfault_cleared, he.qovf_cleared⟩

/-- Settles O16: the writers of each fault bit name the operation; the branch that the operation takes gives the
condition, and its frame says that nothing else is raised. -/
theorem eachFaultHasItsOneSource : Obligations.EachFaultHasItsOneSource := by
  intro i s t h
  have he := effect_of_exec h
  refine ⟨fun hs ht => ?protocol, fun hs ht => ?overflow, fun k u u' hu hu' hs ht => ?sensor⟩
  case protocol =>
    rcases he.pfault_raised hs ht with ⟨rfl, hhead⟩ | ⟨op, rfl⟩
    · exact ⟨.inl ⟨rfl, paused_of_exec_runSlice h (by simp [hs, ht]), hhead⟩, he.qovf_eq nofun nofun,
        he.zones_of_zoneOf_none rfl⟩
    · exact ⟨.inr ⟨op, rfl⟩, he.qovf_eq nofun nofun, he.zones_of_zoneOf_none rfl⟩
  case overflow =>
    obtain ⟨b, rfl⟩ := he.qovf_raised hs ht
    exact ⟨⟨b, rfl⟩, full_of_exec_pushByte h (by simp [hs, ht]), he.pfault_of_pushByte, he.zones_of_zoneOf_none rfl⟩
  case sensor =>
    have hne : u'.sfault ≠ u.sfault := by simp [hs, ht]
    obtain ⟨z, p, rfl, rfl, hz, hticked⟩ := he.sfault_writer hu hu' hne
    have hfired := elapsed_of_exec_manageTemperature h hz hu' fun e => hne (congrArg Zone.sfault e)
    obtain ⟨zs, tr, v, n, rfl, hothers⟩ := he.zoneOf_frame rfl
    exact ⟨⟨z, rfl, rfl⟩, sfEn_of_ticked_sfault hs (hticked ▸ ht), by rw [← elapsed_cast]; exact_mod_cast hfired, rfl,
      rfl, hothers⟩

end Sys2Proof.Claims
end

section
/-! PROOFS. The dispatcher does not see the zones: each of its operations commutes with replacing all zone registers
(60_exceptions.md R284). -/

namespace Sys2Proof.Machine

open Claims (zoneOf withDstat)

/-- The same block with the zone registers `zs`. -/
def withZones (zs : List Zone) (s : State) : State := { s with zones := zs }

/-- `f` neither reads nor writes a zone register. -/
def IgnoresZones (f : State → State) : Prop := ∀ zs, Function.Commute f (withZones zs)

section
variable {f g : State → State}

/-- One after the other. -/
theorem IgnoresZones.comp (hf : IgnoresZones f) (hg : IgnoresZones g) : IgnoresZones (f ∘ g) :=
  fun zs => (hf zs).comp_left (hg zs)

/-- A choice by a test that does not see the zones. -/
theorem IgnoresZones.ite {c : State → Prop} [DecidablePred c] (hc : ∀ zs s, c (withZones zs s) ↔ c s)
    (hf : IgnoresZones f) (hg : IgnoresZones g) : IgnoresZones fun s => if c s then f s else g s := by
  intro zs s
  simp only [hc zs s]
  split
  · exact hf zs s
  · exact hg zs s

/-! ### Wire commands -/

/-- A dispatch, if what it performs ignores the zones. -/
theorem ignoresZones_dispatch (n : Nat) (hf : IgnoresZones f) : IgnoresZones (dispatch n f) :=
  .ite (fun _ _ => .rfl) (fun _ _ => rfl) fun zs s =>
    congrArg (fun t : State => { t with dresult := .dispatched }) (hf zs (queuePop n s))

/-- An unknown opcode's discard. -/
theorem ignoresZones_unknownOpcode (op : Byte) : IgnoresZones (unknownOpcode op) :=
  .ite (fun _ _ => .rfl) (fun _ _ => rfl) fun _ _ => rfl

/-- Every wire command. -/
theorem ignoresZones_performWire (i : Instr) : IgnoresZones (performWire i) := by
  cases i with
  | queuePointAbs x y z r =>
    exact ignoresZones_dispatch 17
      (f := fun s => { emit (.setTarget x.toInt y.toInt z.toInt r.toInt) s with mode := .moving }) fun _ _ => rfl
  | setPosition x y z =>
    exact ignoresZones_dispatch 13 (f := emit (.definePosition x.toInt y.toInt z.toInt)) fun _ _ => rfl
  | delay d =>
    exact ignoresZones_dispatch 5
      (f := fun s => { s with dlyStart := s.inp.now, dlyDur := d, mode := .delay }) fun _ _ => rfl
  | unknownOpcode op => exact ignoresZones_unknownOpcode op
  | _ => exact fun _ _ => rfl

/-! ### The slice -/

/-- Decoding looks at the queue and the opcodes only (43_wire_commands.md R245). -/
theorem ignoresZones_decodeHead : IgnoresZones decodeHead := by
  intro zs s
  have hsame : decodeWire (withZones zs s).cfg.opc (queueWindow (withZones zs s)) =
      decodeWire s.cfg.opc (queueWindow s) := rfl
  simp only [decodeHead, hsame]
  split
  · exact ignoresZones_performWire _ zs s
  · rfl
  · rfl

/-- Step 1 (42_dispatcher.md R204). -/
theorem ignoresZones_completeMove : IgnoresZones completeMove :=
  .ite (fun _ _ => .rfl) (fun _ _ => rfl) fun _ _ => rfl

/-- Step 2 (42_dispatcher.md R204). -/
theorem ignoresZones_completeDelay : IgnoresZones completeDelay :=
  .ite (fun _ _ => .rfl) (fun _ _ => rfl) fun _ _ => rfl

/-- Step 3 (42_dispatcher.md R205). -/
theorem ignoresZones_decodeStep : IgnoresZones decodeStep :=
  .ite (fun _ _ => .rfl) ignoresZones_decodeHead fun _ _ => rfl

/-- The slice of a dispatcher that is not paused (42_dispatcher.md R202). -/
theorem ignoresZones_slice : IgnoresZones slice :=
  ignoresZones_decodeStep.comp (ignoresZones_completeDelay.comp ignoresZones_completeMove)

/-- DSTAT as the response: it holds no zone register (10_state.md R50). -/
theorem ignoresZones_withDstat : IgnoresZones withDstat := fun _ _ => rfl

/-! ### The host operations -/

/-- RUN_SLICE (42_dispatcher.md R202, R203). -/
theorem ignoresZones_runSlice : IgnoresZones runSlice :=
  .ite (fun _ _ => .rfl) ignoresZones_withDstat (ignoresZones_withDstat.comp ignoresZones_slice)

/-- PUSH_BYTE (42_dispatcher.md R201). -/
theorem ignoresZones_pushByte (b : Byte) : IgnoresZones (pushByte b) :=
  .ite (fun _ _ => .rfl) (fun _ _ => rfl) fun _ _ => rfl

/-- Every operation that names no zone performs something that ignores the zones. -/
theorem exec_of_zoneOf_none {i : Instr} (hi : zoneOf i = none) :
    ∃ f, IgnoresZones f ∧ ∀ s, exec i s = .next (f s) := by
  cases i with
  | manageTemperature | setTarget | hasReached | setEnable | readZstat => cases hi
  | queuePointAbs | setPosition | delay | unknownOpcode =>
    exact ⟨_, ignoresZones_performWire _, exec_of_isWire rfl⟩
  | pushByte b => exact ⟨_, ignoresZones_pushByte b, fun _ => rfl⟩
  | runSlice => exact ⟨_, ignoresZones_runSlice, fun _ => rfl⟩
  | resetCommands => exact ⟨fun s => respond 0 (resetDispatcher s), fun _ _ => rfl, fun _ => rfl⟩
  | pause flag => exact ⟨fun s => respond 0 { s with paused := flag }, fun _ _ => rfl, fun _ => rfl⟩
  | queryPaused => exact ⟨fun s => respond ((BitVec.ofBool s.paused).setWidth 32) s, fun _ _ => rfl, fun _ => rfl⟩
  | readDstat => exact ⟨withDstat, ignoresZones_withDstat, fun _ => rfl⟩
  | nop | reservedC | reservedD | reservedE | reservedF => exact ⟨respond 0, fun _ _ => rfl, fun _ => rfl⟩

end

end Sys2Proof.Machine

namespace Sys2Proof.Claims

open Machine

/-- Settles O20: what such an operation performs commutes with replacing the zone registers. -/
theorem dispatcherIgnoresZones : Obligations.DispatcherIgnoresZones := by
  intro i s zs hi
  obtain ⟨f, hf, hexec⟩ := exec_of_zoneOf_none hi
  exact ⟨f s, hexec s, (hexec _).trans (congrArg Host.Outcome.next (hf zs s))⟩

end Sys2Proof.Claims
end

section
/-! PROOFS. The idle step, and elapsed time across a rollover of NOW (60_exceptions.md R273, R286). -/

namespace Sys2Proof.Machine

section
variable {s : State}

/-- With no action of the outside left, the fetch answers that the block waits (70_reset_and_hazards.md R303). -/
theorem fetch_of_no_action (h : s.pending = []) : fetch s = .idle := by simp only [fetch, h]

/-- A legal block that waits holds its state. -/
theorem step_of_fetch_idle (hc : legalConfig s.cfg = true) (hf : fetch s = .idle) : step s = .next s := by
  simp only [step, hc, if_true, hf]

end

end Sys2Proof.Machine

namespace Sys2Proof.Claims

open Machine

/-- Settles O9: the fetch finds nothing to do. -/
theorem idleBlockHoldsItsState : Obligations.IdleBlockHoldsItsState :=
  fun _ hlegal hpending => step_of_fetch_idle hlegal (fetch_of_no_action hpending)

/-- Settles O58: elapsed time is a difference of 32-bit words, and `d` is one of them. -/
theorem elapsedTimeSurvivesRollover : Obligations.ElapsedTimeSurvivesRollover := by
  intro start d hd
  calc elapsed (start + BitVec.ofNat 32 d) start
      = (start + BitVec.ofNat 32 d - start).toNat := elapsed_eq_sub _ _
    _ = (BitVec.ofNat 32 d).toNat := by rw [add_sub_cancel_left]
    _ = d := Nat.mod_eq_of_lt hd

end Sys2Proof.Claims
end

section
/-! PROOFS. Block reset, and RESET_COMMANDS as the partial reset of the dispatcher (70_reset_and_hazards.md R300 to
R302). -/

namespace Sys2Proof.Machine

section
variable {s : State} {rest : List HostAction}

/-! ### The step that takes a block reset -/

/-- Block reset as the outside's next action: the fetch takes it and nothing else (70_reset_and_hazards.md R300). -/
theorem fetch_of_blockReset (h : s.pending = .blockReset :: rest) : fetch s = .reset { s with pending := rest } := by
  simp only [fetch, h]

/-- A legal block that fetches a reset is reset. -/
theorem step_of_fetch_reset {t : State} (hc : legalConfig s.cfg = true) (hf : fetch s = .reset t) :
    step s = .next (blockReset t) := by
  simp only [step, hc, if_true, hf]

/-! ### The state after block reset (70_reset_and_hazards.md R301) -/

/-- Block reset gives each of the block's zones one set of registers. -/
theorem blockReset_zones_length : (blockReset s).zones.length = s.cfg.nZones := List.length_map _

/-- Block reset leaves no zone with other registers than the reset ones. -/
theorem eq_reset_of_mem_blockReset_zones {u : Zone} (h : u ∈ (blockReset s).zones) : u = Zone.reset s.cfg := by
  rw [blockReset_zones] at h
  obtain ⟨p, -, rfl⟩ := List.mem_map.1 h
  rfl

/-- DSTAT after block reset: every field is 0. -/
theorem dstat_blockReset : dstat (blockReset s) = 0#32 :=
  BitVec.eq_of_toNat_eq (by simp [dstat_toNat, Mode.code, DecodeResult.code])

/-- ZSTAT after block reset: EN alone is set, under any configuration; with CUR and TARGET both 0 the target is not
reached. -/
theorem zstat_reset (c : Config) : zstat (Zone.reset c) = 0x01000000#32 := by
  have hreached : reached (Zone.reset c) = false := rfl
  exact BitVec.eq_of_toNat_eq (by rw [zstat_toNat, hreached]; simp [Zone.reset])

/-- Block reset drives every actuator 0 (70_reset_and_hazards.md R300). -/
theorem eq_zero_of_dutyOut_blockReset {z : ZoneNum} {d : BitVec 8} (h : dutyOut (blockReset s) z = some d) :
    d = 0 := by
  obtain ⟨u, hu, rfl⟩ := Option.map_eq_some_iff.1 h
  rw [eq_reset_of_mem_blockReset_zones (List.mem_of_getElem? hu)]
  rfl

end

/-- The configuration that `State.reset` names is legal. -/
theorem legalConfig_reference : legalConfig Config.reference = true := by decide

/-! ### RESET_COMMANDS -/

/-- What RESET_COMMANDS performs: the partial reset of the dispatcher, with response 0 (42_dispatcher.md R206). -/
theorem exec_resetCommands (s : State) : exec .resetCommands s = .next (respond 0 (resetDispatcher s)) := rfl

/-- The partial reset writes the eight registers of 70_reset_and_hazards.md R302 and nothing else. -/
theorem resetDispatcher_frame (s : State) :
    resetDispatcher s = { s with qhead := 0, qlen := 0, mode := .ready, pfault := false, qovf := false,
                                 dresult := .notAttempted, dlyStart := 0, dlyDur := 0 } := rfl

/-- The partial reset empties the queue, whatever its buffer holds. -/
theorem queueWindow_resetDispatcher (s : State) : queueWindow (resetDispatcher s) = [] :=
  (queueWindow_congr rfl rfl rfl rfl).trans (queueWindow_clear s)

end Sys2Proof.Machine

namespace Sys2Proof.Claims

open Machine

/-- Settles O10: the step is `blockReset` of the state with the action taken; each zone's registers are `Zone.reset`,
and the rest are the values of `State.resetWith`. -/
theorem blockResetRestoresEveryRegister : Obligations.BlockResetRestoresEveryRegister := by
  intro s rest hlegal hpending
  refine ⟨blockReset { s with pending := rest }, step_of_fetch_reset hlegal (fetch_of_blockReset hpending),
    blockReset_mode _, blockReset_paused _, blockReset_pfault _, blockReset_dresult _, blockReset_qhead _,
    blockReset_qlen _, blockReset_qovf _, blockReset_dlyStart _, blockReset_dlyDur _, blockReset_zones_length,
    fun u hu => ?_, blockReset_trace _, dstat_blockReset, blockReset_cfg _, blockReset_tmem _,
    fun _ _ => eq_zero_of_dutyOut_blockReset, blockReset_pending _⟩
  obtain rfl := eq_reset_of_mem_blockReset_zones hu
  exact ⟨rfl, rfl, rfl, rfl, rfl, rfl, rfl, rfl, rfl, rfl, rfl, zstat_reset s.cfg⟩

/-- Settles O11: reset meets the invariant under every legal configuration, and `State.reset` names one. -/
theorem invariantHoldsAtReset : Obligations.InvariantHoldsAtReset :=
  ⟨resetWith_inv legalConfig_reference [], fun _ t hc => resetWith_inv hc t⟩

/-- Settles O36: RESET_COMMANDS performs the partial reset of the dispatcher and responds 0. -/
theorem resetCommandsEmptiesTheDispatcher : Obligations.ResetCommandsEmptiesTheDispatcher := fun s =>
  ⟨respond 0 (resetDispatcher s), exec_resetCommands s, congrArg (respond 0) (resetDispatcher_frame s),
    (queueWindow_congr rfl rfl rfl rfl).trans (queueWindow_resetDispatcher s)⟩

end Sys2Proof.Claims
end

section
/-! PROOFS. Written-out words decode to what they encode (95_test_vectors.md sections 2.1, 2.2 and 2.6). -/

namespace Sys2Proof

section
variable {o : Opcodes} {i : Instr}

/-- A host word decodes to the operation that its used bits encode: the bits that the operation ignores may hold
anything (30_encoding.md R101). -/
theorem decodeHost_of_encode_usedBits {w : Word}
    (h : encode o i = .host (w &&& Claims.usedBits (hopField w))) : decodeHost w = i :=
  calc decodeHost w
      = decodeHost (w &&& Claims.usedBits (hopField w)) := (Claims.hostWordIsItsUsedBits o w).2.symm
    _ = i := decodeHost_of_encode h

/-- The bytes of one well-formed wire command decode to it, with nothing left over. -/
theorem decodeWire_of_encode_alone {bs : List Byte} (hd : o.distinct = true) (hw : i.wellFormed o = true)
    (h : encode o i = .wire bs) : decodeWire o bs = .instr i [] := by
  simpa using decodeWire_of_encode hd hw h []

end

/-- The default opcode bytes are a legal triple (00_scope.md R11, 30_encoding.md R112). -/
theorem Opcodes.distinct_default : Opcodes.default.distinct = true := rfl

end Sys2Proof

namespace Sys2Proof.Claims

/-- Settles O6: each host word's used bits are the encoding of its operation (the ignored bits 0x0000FF00 of the
PUSH_BYTE word are set), and each byte string is the encoding of its wire command under the default opcodes. -/
theorem sampleWordsDecode : Obligations.SampleWordsDecode :=
  ⟨decodeHost_of_encode_usedBits (o := .default) (by decide),
    decodeHost_of_encode_usedBits (o := .default) (by decide),
    decodeHost_of_encode_usedBits (o := .default) (by decide),
    decodeWire_of_encode_alone Opcodes.distinct_default rfl (by decide),
    decodeWire_of_encode_alone Opcodes.distinct_default rfl (by decide),
    decodeWire_of_encode_alone Opcodes.distinct_default rfl (by decide)⟩

end Sys2Proof.Claims
end
